-- ==== Sys2Proof/Word.lean ====
section
/-! DEFINITION. The words the block holds and the logic level (00_scope.md R8, R10, R12). -/

namespace Sys2Proof

/-- `cmd_i`, `cmdx_i`, CMD and CMDX: one bit per symbol, symbol i in bit 23 - i (R11, R21, R22). -/
abbrev CmdWord := BitVec 24

/-- A duration in ticks, the width of TMR and of a ROM word (R8, R55). -/
abbrev Dur := BitVec 14

/-- A symbol address, 0 to 23 (20_memory.md R54): an address of 24 or more has no meaning and cannot be written. -/
abbrev SymIdx := Fin 24

/-- A logic level (R12). -/
inductive Level where
  | low
  | high
  deriving DecidableEq, Repr

/-- HIGH = 1, LOW = 0 (R12). -/
def Level.bit : Level → BitVec 1
  | .low => 0#1
  | .high => 1#1

end Sys2Proof
end

