-- ==== Sys2Proof/Config.lean ====
section
/-! DEFINITION. What an implementation fixes: the constants of 00_scope.md R6 and the open parameter FAULT_PREFIX of R9. -/

namespace Sys2Proof

/-- When an invalid symbol is detected (R9): LAZY, when the sequencer reaches its slot; PRESCAN, at START. -/
inductive FaultPrefix where
  | lazy
  | prescan
  deriving DecidableEq, Repr, Inhabited

/-- The four hard-wired numbers (R6, R7). CMD_LEN = 24 is structural (R5). -/
structure Constants where
  short        : Nat
  long         : Nat
  radioSilence : Nat
  repeatCount  : Nat
  deriving DecidableEq, Repr

namespace Config

/-- The values this hardware takes (R6), as the document prints them (R7; entry 14). -/
def constants : Constants where
  short        := 390
  long         := 1030
  radioSilence := 9920
  repeatCount  := 10

/-- SHORT as a ROM word (20_memory.md R55). -/
def short : Dur := BitVec.ofNat 14 constants.short

/-- LONG as a ROM word. -/
def long : Dur := BitVec.ofNat 14 constants.long

/-- RADIO_SILENCE as a ROM word. -/
def radioSilence : Dur := BitVec.ofNat 14 constants.radioSilence

/-- REPEAT_COUNT at the width of REP (10_state.md R24). -/
def repeatCount : BitVec 4 := BitVec.ofNat 4 constants.repeatCount

/-- FAULT_PREFIX, OPEN (R9, 92_eei_decisions.md D9): a constant without a body, so that nothing proved of the model
rests on one of its two values (entry 2). DESIGN CHOICE of form. -/
opaque faultPrefix : FaultPrefix

end Config

end Sys2Proof
end

