-- ==== Sys2Proof/Syntax.lean ====
section
/-! DEFINITION. The operations of spec/opcode_table.json and the named things their rules speak of. -/

namespace Sys2Proof

/-- One constructor per row of spec/opcode_table.json: the six slot operations of 30_encoding.md R73 and the three host
operations of R81. A slot operation's operand is the position it stands at, which is state, so it carries none; an ignored bit
of an encoding is no operand (R83). START carries the three ports it latches (43_host_operations.md R141). -/
inductive Instr where
  | sym0
  | sym1
  | symx
  | trail
  | gap
  | endgap
  | reset
  | start (cmd cmdx : CmdWord) (lenerr : Bool)
  | tick
  deriving DecidableEq, Repr

/-- The operations a UOP can select (30_encoding.md R73). -/
inductive SlotOp where
  | sym0
  | sym1
  | symx
  | trail
  | gap
  | endgap
  deriving DecidableEq, Repr

/-- A slot operation as an instruction of the table. -/
def SlotOp.toInstr : SlotOp → Instr
  | .sym0 => .sym0
  | .sym1 => .sym1
  | .symx => .symx
  | .trail => .trail
  | .gap => .gap
  | .endgap => .endgap

/-- What the mapper sees at a symbol slot (20_memory.md R52). -/
inductive SymClass where
  | s0
  | s1
  | sx
  deriving DecidableEq, Repr

/-- The duration selects that have a ROM word (20_memory.md R55). -/
inductive Dsel where
  | short
  | long
  | radioSilence
  deriving DecidableEq, Repr

/-- The five pulse codes that are used (30_encoding.md R75). -/
inductive PulseCode where
  | hShort
  | hLong
  | lShort
  | lLong
  | lSil
  deriving DecidableEq, Repr

/-- A pulse event: a level and a duration in ticks (00_scope.md R12). -/
structure Event where
  level : Level
  dur   : Dur
  deriving DecidableEq, Repr

/-- ST (10_state.md R23). -/
inductive RunState where
  | idle
  | run
  | done
  | fault
  deriving DecidableEq, Repr

/-- ERRKIND (10_state.md R31), its reserved code included, so that the register's four values can all be held. -/
inductive ErrKind where
  | none
  | length
  | symbol
  | reserved
  deriving DecidableEq, Repr

/-- The input ports as sampled at one tick (10_state.md R35). -/
structure Inputs where
  rst_i    : Bool
  start_i  : Bool
  cmd_i    : CmdWord
  cmdx_i   : CmdWord
  lenerr_i : Bool
  deriving DecidableEq, Repr

/-- The position, the block's program counter (10_state.md R27). -/
structure Position where
  rep  : BitVec 4
  slot : BitVec 5
  ph   : BitVec 1
  deriving DecidableEq, Repr

end Sys2Proof
end

