-- ==== Sys2Proof/WellFormed.lean ====
section
/-! DEFINITION. Which terms are well formed: instructions, command strings, constants. -/

namespace Sys2Proof

/-- Every instruction is well formed: any 24 + 24 + 1 bits on the ports are a command and nothing is refused at the block's
boundary (30_encoding.md R85), and no other operation has an operand. -/
def Instr.wf : Instr → Bool
  | .sym0 => true
  | .sym1 => true
  | .symx => true
  | .trail => true
  | .gap => true
  | .endgap => true
  | .reset => true
  | .start _ _ _ => true
  | .tick => true

/-- A command string has exactly 24 characters, each '0' or '1' (30_encoding.md R86). -/
def commandStringWf (cs : List Char) : Bool :=
  cs.length == 24 && cs.all fun ch => ch == '0' || ch == '1'

/-- The relations between the constants that rules rely on (00_scope.md R7, R8): all positive, SHORT < LONG < RADIO_SILENCE,
RADIO_SILENCE fits the 14-bit timer, REPEAT_COUNT from 1 to 15. -/
def Constants.wf (k : Constants) : Bool :=
  decide (0 < k.short) && decide (k.short < k.long) && decide (k.long < k.radioSilence) &&
    decide (k.radioSilence < 2 ^ 14) && decide (1 ≤ k.repeatCount) && decide (k.repeatCount ≤ 15)

end Sys2Proof
end

