-- ==== Sys2Proof/Decode.lean ====
section
/-! DEFINITION. The binary forms of 30_encoding.md R70: decoders, total, and after them the encoders. -/

namespace Sys2Proof

/-- One row of the UOP table: a word selects the row whose `w AND mask = match` (30_encoding.md R73). -/
structure UopRow where
  op    : SlotOp
  value : BitVec 4
  mask  : BitVec 4
  deriving DecidableEq, Repr

/-- The six rows of 30_encoding.md R73. -/
def uopTable : List UopRow :=
  [⟨.sym0, 0x0#4, 0xF#4⟩, ⟨.sym1, 0x1#4, 0xF#4⟩, ⟨.symx, 0x2#4, 0xE#4⟩,
   ⟨.trail, 0x4#4, 0xC#4⟩, ⟨.gap, 0x8#4, 0xC#4⟩, ⟨.endgap, 0xC#4, 0xC#4⟩]

/-- Whether a UOP selects a row. -/
def UopRow.selects (r : UopRow) (w : BitVec 4) : Bool := w &&& r.mask == r.value

/-- The decode of a UOP, fields first: K, then the symbol cell {X, B} of a symbol slot (30_encoding.md R73). Total. -/
def decodeUop (w : BitVec 4) : SlotOp :=
  if w.extractLsb' 2 2 = 0b00#2 then
    if w.getLsbD 1 then .symx
    else if w.getLsbD 0 then .sym1
    else .sym0
  else if w.extractLsb' 2 2 = 0b01#2 then .trail
  else if w.extractLsb' 2 2 = 0b10#2 then .gap
  else .endgap

/-- HOSTOP = {rst_i, start_i} (30_encoding.md R81). -/
def hostopWord (p : Inputs) : BitVec 2 := BitVec.ofBool p.rst_i ++ BitVec.ofBool p.start_i

/-- The host operation that `rst_i` and `start_i` select for a block in run state `st` (30_encoding.md R81): a start request
outside IDLE is a TICK. Total. -/
def selectHostop (st : RunState) (rst start : Bool) (c x : CmdWord) (e : Bool) : Instr :=
  if rst then .reset
  else if start then
    match st with
    | .idle => .start c x e
    | .run => .tick
    | .done => .tick
    | .fault => .tick
  else .tick

/-- The host operation of a HOSTOP word (30_encoding.md R81). -/
def decodeHostop (st : RunState) (w : BitVec 2) (c x : CmdWord) (e : Bool) : Instr :=
  selectHostop st (w.getLsbD 1) (w.getLsbD 0) c x e

/-- The host operation the ports select at a tick that finds the block in `st`. -/
def hostop (st : RunState) (p : Inputs) : Instr :=
  selectHostop st p.rst_i p.start_i p.cmd_i p.cmdx_i p.lenerr_i

/-- An operation as the block meets it: a micro-operation word, or the port values of a tick. -/
inductive Encoded where
  | uop (w : BitVec 4)
  | ports (p : Inputs)
  deriving DecidableEq, Repr

/-- The operation an encoded word stands for, for a block in run state `st`. Total: nothing is refused (R73, R81, R85). -/
def decode (st : RunState) : Encoded → Instr
  | .uop w => (decodeUop w).toInstr
  | .ports p => hostop st p

/-- Why a table word is rejected. -/
inductive DecodeError where
  | unknownFormat  -- the number of bits is not that of a format
  | strayBits      -- a bit above the format's width is set
  deriving DecidableEq, Repr

/-- A word of the opcode table by its number of bits: 2 bits are a HOSTOP (read in IDLE, the ports' other bits zero), 4 bits a
UOP. Eight bits are read as a UOP: rounded up to a byte the two formats overlap (entry 7, DESIGN CHOICE). -/
def decodeTable (nbits w : Nat) : Except DecodeError Instr :=
  if nbits = 2 then
    if w < 4 then .ok (decodeHostop .idle (BitVec.ofNat 2 w) 0#24 0#24 false) else .error .strayBits
  else if nbits = 4 ∨ nbits = 8 then
    if w < 16 then .ok (decodeUop (BitVec.ofNat 4 w)).toInstr else .error .strayBits
  else .error .unknownFormat

/-- The instruction the decoder reads from a table word, none where it rejects the word. -/
def decodeTableWord (nbits w : Nat) : Option Instr :=
  match decodeTable nbits w with
  | .ok i => some i
  | .error _ => none

/-- The class of a symbol cell {x, b} (20_memory.md R52): b is ignored when x = 1. -/
def classOf (cell : BitVec 2) : SymClass :=
  if cell.getLsbD 1 then .sx
  else if cell.getLsbD 0 then .s1
  else .s0

/-- The pulse code of three bits {LVL, DSEL}; the reserved codes have none (30_encoding.md R75, R82). -/
def PulseCode.ofCode (w : BitVec 3) : Option PulseCode :=
  if w = 0b100#3 then some .hShort
  else if w = 0b101#3 then some .hLong
  else if w = 0b000#3 then some .lShort
  else if w = 0b001#3 then some .lLong
  else if w = 0b010#3 then some .lSil
  else none

/-- The duration select of a code; 0b11 is reserved and has none (20_memory.md R55). -/
def Dsel.ofCode (w : BitVec 2) : Option Dsel :=
  if w = 0b00#2 then some .short
  else if w = 0b01#2 then some .long
  else if w = 0b10#2 then some .radioSilence
  else none

/-- The command word of a command string, character i into bit 23 - i (30_encoding.md R71, R86); none if the string is not a
command string, which the block never sees as such: the glue reports it. -/
def commandOfString (cs : List Char) : Option CmdWord :=
  if commandStringWf cs then
    some (cs.foldl (fun w ch => (w <<< 1) ||| (if ch = '1' then 1#24 else 0#24)) 0#24)
  else none

/-! The encoders, from the same tables. -/

/-- The canonical UOP of a slot operation, ignored bits 0 (30_encoding.md R73, R83). -/
def encodeUop : SlotOp → BitVec 4
  | .sym0 => 0b0000#4
  | .sym1 => 0b0001#4
  | .symx => 0b0010#4
  | .trail => 0b0100#4
  | .gap => 0b1000#4
  | .endgap => 0b1100#4

/-- The canonical word or port values of an instruction (30_encoding.md R73, R81): ports that the operation does not read
are 0. -/
def encode : Instr → Encoded
  | .sym0 => .uop 0b0000#4
  | .sym1 => .uop 0b0001#4
  | .symx => .uop 0b0010#4
  | .trail => .uop 0b0100#4
  | .gap => .uop 0b1000#4
  | .endgap => .uop 0b1100#4
  | .reset => .ports ⟨true, false, 0#24, 0#24, false⟩
  | .start c x e => .ports ⟨false, true, c, x, e⟩
  | .tick => .ports ⟨false, false, 0#24, 0#24, false⟩

/-- The code of ST (10_state.md R23). -/
def RunState.code : RunState → BitVec 2
  | .idle => 0b00#2
  | .run => 0b01#2
  | .done => 0b10#2
  | .fault => 0b11#2

/-- The code of ERRKIND (10_state.md R31). -/
def ErrKind.code : ErrKind → BitVec 2
  | .none => 0b00#2
  | .length => 0b01#2
  | .symbol => 0b10#2
  | .reserved => 0b11#2

/-- The code of a duration select (20_memory.md R55). -/
def Dsel.code : Dsel → BitVec 2
  | .short => 0b00#2
  | .long => 0b01#2
  | .radioSilence => 0b10#2

/-- The level of a pulse code (30_encoding.md R75). -/
def PulseCode.level : PulseCode → Level
  | .hShort => .high
  | .hLong => .high
  | .lShort => .low
  | .lLong => .low
  | .lSil => .low

/-- The duration select of a pulse code (30_encoding.md R75). -/
def PulseCode.dsel : PulseCode → Dsel
  | .hShort => .short
  | .hLong => .long
  | .lShort => .short
  | .lLong => .long
  | .lSil => .radioSilence

/-- PCODE = {LVL, DSEL} (30_encoding.md R75). -/
def PulseCode.code (p : PulseCode) : BitVec 3 := p.level.bit ++ p.dsel.code

/-- EV = {LVL, DUR} (30_encoding.md R76). -/
def Event.word (e : Event) : BitVec 15 := e.level.bit ++ e.dur

end Sys2Proof
end

