-- ==== Sys2Proof/Machine/State.lean ====
section
/-! DEFINITION. The machine's state, the reasons a step can stop, and the state after reset. -/

namespace Sys2Proof.Machine

open Sys2Proof

/-- The state of 10_state.md R20, the history variable TRACE of R40, and two fields of the model's own (the last two). -/
structure State where
  /-- CMD (R21). -/
  cmd       : CmdWord
  /-- CMDX (R22). -/
  cmdx      : CmdWord
  /-- ST (R23). -/
  st        : RunState
  /-- REP (R24). -/
  rep       : BitVec 4
  /-- SLOT (R25). -/
  slot      : BitVec 5
  /-- PH (R26). -/
  ph        : BitVec 1
  /-- TMR (R28). -/
  tmr       : Dur
  /-- LEVEL (R29). -/
  level     : Level
  /-- STB (R30). -/
  stb       : Bool
  /-- ERRKIND (R31). -/
  errkind   : ErrKind
  /-- ERRIDX (R32). -/
  erridx    : BitVec 5
  /-- TRACE, the events emitted since reset, oldest first (R40; entry 3). -/
  trace     : List Event
  /-- The model's own: the port values of the coming ticks, the next tick's first (entry 1). -/
  inputs    : List Inputs
  /-- The model's own: a reset has happened since power-on (70_reset_and_hazards.md R181; entry 4). -/
  resetSeen : Bool
  deriving DecidableEq, Repr

/-- The block stops on no fault: InvalidCommand is a state, ST = FAULT, with the entry of 60_exceptions.md R160, and the
block has no other exception (R150). No constructor (entry 17; safe). -/
inductive Fault where
  deriving DecidableEq, Repr

/-- Why a step has no meaning. -/
inductive Refusal where
  /-- An instruction without a meaning in this model; no arm of `exec` answers it. Safe: the run stops. -/
  | notModelled (mnemonic : String)
  /-- START or TICK before the first reset after power-on (70_reset_and_hazards.md R181): the only step is RESET. Safe. -/
  | beforeFirstReset
  /-- START or TICK in a state that holds a reserved code or a position outside the 511 (30_encoding.md R82). Safe. -/
  | reservedCode
  deriving DecidableEq, Repr

/-- The state after reset (10_state.md R37): every register as the table gives it, no inputs listed, a reset seen. -/
def State.reset : State where
  cmd       := 0x000000#24
  cmdx      := 0x000000#24
  st        := .idle
  rep       := 0#4
  slot      := 0#5
  ph        := 0#1
  tmr       := 0#14
  level     := .low
  stb       := false
  errkind   := .none
  erridx    := 0#5
  trace     := []
  inputs    := []
  resetSeen := true

end Sys2Proof.Machine
end

