-- ==== Sys2Proof/Machine/Operands.lean ====
section
/-! DEFINITION. What an operation reads: the position, the symbol cell, the UOP, the constants ROM, the ports of the tick. -/

namespace Sys2Proof.Machine

open Sys2Proof

/-- The position, read as one thing (10_state.md R27). -/
def State.pos (s : State) : Position := ⟨s.rep, s.slot, s.ph⟩

/-- `MemRead(i, 1)` = {CMDX[23 - i], CMD[23 - i]} (20_memory.md R51), a function of the two registers (R63). -/
def memRead (cmd cmdx : CmdWord) (i : SymIdx) : BitVec 2 :=
  BitVec.ofBool (cmdx.getLsbD (23 - i.val)) ++ BitVec.ofBool (cmd.getLsbD (23 - i.val))

/-- The class of symbol i (20_memory.md R52). -/
def symClass (cmd cmdx : CmdWord) (i : SymIdx) : SymClass := classOf (memRead cmd cmdx i)

/-- The least i with `x[23 - i] = 1`, none if x = 0 (10_state.md R32, 43_host_operations.md R141). -/
def firstSx (x : CmdWord) : Option SymIdx :=
  (List.finRange 24).find? fun i => x.getLsbD (23 - i.val)

/-- The UOP at a repetition and slot (30_encoding.md R74); the fetch of a symbol slot reads the cell SLOT
(41_framing_sequencer.md R117). -/
def uop (cmd cmdx : CmdWord) (rep : BitVec 4) (slot : BitVec 5) : BitVec 4 :=
  if rep = Config.repeatCount then 0b11#2 ++ 0b00#2
  else if h : slot.toNat < 24 then 0b00#2 ++ memRead cmd cmdx ⟨slot.toNat, h⟩
  else if slot = 24#5 then 0b01#2 ++ 0b00#2
  else 0b10#2 ++ 0b00#2

/-- The constants ROM at a select that has a word (20_memory.md R55). -/
def rom : Dsel → Dur
  | .short => Config.short
  | .long => Config.long
  | .radioSilence => Config.radioSilence

/-- The constants ROM by its two address bits: `Rom(0b11)` has no value (20_memory.md R55). -/
def romAt (w : BitVec 2) : Option Dur := (Dsel.ofCode w).map rom

/-- The event of a pulse code: its level and the duration it selects (30_encoding.md R77). -/
def pulseEvent (p : PulseCode) : Event := ⟨p.level, rom p.dsel⟩

/-- Ports at rest: nothing requested (entry 1). -/
def quiet : Inputs := ⟨false, false, 0#24, 0#24, false⟩

/-- The port values of this tick: the next listed sample, or ports at rest where none is listed (entry 1, DESIGN CHOICE). -/
def State.ports (s : State) : Inputs := s.inputs.headD quiet

/-- One of the 511 positions (41_framing_sequencer.md R121, 30_encoding.md R82): two phases in slots 0 to 24, one in the gap
slot, and the end gap. -/
def positionLegal (p : Position) : Bool :=
  (decide (p.rep < Config.repeatCount) && (decide (p.slot ≤ 24#5) || (p.slot == 25#5 && p.ph == 0#1))) ||
    (p.rep == Config.repeatCount && p.slot == 25#5 && p.ph == 0#1)

end Sys2Proof.Machine
end

