-- ==== Sys2Proof/Machine/Ops.lean ====
section
/-! DEFINITION. The shared operations: register writes, event load, fault entry, halt, countdown, and the check that comes
before a START or a TICK. -/

namespace Sys2Proof.Machine

open Sys2Proof

/-- The outcome of one operation. -/
abbrev Result := Host.Outcome State Fault Refusal

/-- The state with other samples to come. -/
def State.withInputs (s : State) (ins : List Inputs) : State := { s with inputs := ins }

/-- The sample of this tick is used up (10_state.md R41: no input is remembered). -/
def State.consume (s : State) : State := { s with inputs := s.inputs.tail }

/-- `pc <- (r, s, p)` (00_scope.md R14). -/
def State.setPos (s : State) (p : Position) : State :=
  { s with rep := p.rep, slot := p.slot, ph := p.ph }

/-- `ST <- v`. -/
def State.setSt (s : State) (v : RunState) : State := { s with st := v }

/-- `MemWrite(0, 24, {x, c})`: all 24 cells at once (20_memory.md R53). -/
def State.latch (s : State) (c x : CmdWord) : State := { s with cmd := c, cmdx := x }

/-- `emit`, the event-load primitive (42_pulse_timer.md R132). -/
def State.emit (s : State) (lvl : Level) (d : Dur) : State :=
  { s with level := lvl, tmr := d, stb := true, trace := s.trace ++ [⟨lvl, d⟩] }

/-- Fault entry, `raise InvalidCommand(kind, idx)` (60_exceptions.md R160). There is no return from it but RESET (R161). -/
def State.raise (s : State) (kind : ErrKind) (idx : BitVec 5) : State :=
  { s with st := .fault, level := .low, tmr := 0#14, stb := false, errkind := kind, erridx := idx }

/-- Halt: the run completes (41_framing_sequencer.md R114). -/
def State.halt (s : State) : State :=
  { s with st := .done, level := .low, tmr := 0#14, stb := false }

/-- Countdown (42_pulse_timer.md R133). -/
def State.countdown (s : State) : State := { s with tmr := s.tmr - 1#14, stb := false }

/-- A reserved code is held: ERRKIND = 0b11, or a position outside the 511 (30_encoding.md R82). -/
def State.reservedHeld (s : State) : Bool := s.errkind == .reserved || !positionLegal s.pos

/-- START and TICK have a meaning here: a reset has been seen and no reserved code is held. -/
def State.ready (s : State) : Prop := s.resetSeen = true ∧ s.reservedHeld = false

/-- Why a START or a TICK has no meaning here: no reset yet (70_reset_and_hazards.md R181; entry 4), or a reserved code held
(30_encoding.md R82: "a step function asked about one should refuse"; entry 5). -/
def State.stopReason (s : State) : Option Refusal :=
  if s.resetSeen then
    if s.reservedHeld then some .reservedCode else none
  else some .beforeFirstReset

/-- Go on only where START and TICK have a meaning. -/
def State.guarded (s : State) (go : Result) : Result :=
  match s.stopReason with
  | some r => .refused r
  | none => go

end Sys2Proof.Machine
end

