-- ==== Sys2Proof/Machine/Mapper.lean ====
section
/-! DEFINITION. The symbol mapper: SYM0, SYM1, SYMX (40_symbol_mapper.md). The phase is that of the position the block has
just come to stand on. -/

namespace Sys2Proof.Machine

open Sys2Proof

/-- SYM0 (R101). -/
def execSym0 (s : State) : Result :=
  if s.ph = 0#1 then .next (s.emit .high (rom .short)) else .next (s.emit .low (rom .long))

/-- SYM1 (R102). -/
def execSym1 (s : State) : Result :=
  if s.ph = 0#1 then .next (s.emit .high (rom .long)) else .next (s.emit .low (rom .short))

/-- SYMX (R103): raises with the slot index, whatever the phase (entry 13). -/
def execSymx (s : State) : Result := .next (s.raise .symbol s.slot)

end Sys2Proof.Machine
end

