-- ==== Sys2Proof/Machine/Framing.lean ====
section
/-! DEFINITION. The framing sequencer: TRAIL, GAP, ENDGAP, the next position, and the issue of the operation at a position
(41_framing_sequencer.md; 42_pulse_timer.md R131). -/

namespace Sys2Proof.Machine

open Sys2Proof

/-- TRAIL (R110). -/
def execTrail (s : State) : Result :=
  if s.ph = 0#1 then .next (s.emit .high (rom .short)) else .next (s.emit .low (rom .long))

/-- GAP (R111): one event, the phase is not looked at (entry 13). -/
def execGap (s : State) : Result := .next (s.emit .low (rom .radioSilence))

/-- ENDGAP (R112): one event, the phase is not looked at (entry 13). -/
def execEndgap (s : State) : Result := .next (s.emit .low (rom .radioSilence))

/-- `next` (R113), none for halt. Asked of legal positions only (`State.guarded`). -/
def nextPosition (p : Position) : Option Position :=
  if p.slot ≤ 24#5 ∧ p.ph = 0#1 then some ⟨p.rep, p.slot, 1#1⟩
  else if p.slot ≤ 24#5 ∧ p.ph = 1#1 then some ⟨p.rep, p.slot + 1#5, 0#1⟩
  else if p.slot = 25#5 ∧ p.rep < Config.repeatCount - 1#4 then some ⟨p.rep + 1#4, 0#5, 0#1⟩
  else if p.slot = 25#5 ∧ p.rep = Config.repeatCount - 1#4 then some ⟨Config.repeatCount, 25#5, 0#1⟩
  else none

/-- The operation at the position the block stands on: the decode of its UOP (42_pulse_timer.md R131). -/
def State.slotOp (s : State) : SlotOp := decodeUop (uop s.cmd s.cmdx s.rep s.slot)

/-- `issue` (42_pulse_timer.md R131), of the position already written. -/
def issue (s : State) : Result :=
  match s.slotOp with
  | .sym0 => execSym0 s
  | .sym1 => execSym1 s
  | .symx => execSymx s
  | .trail => execTrail s
  | .gap => execGap s
  | .endgap => execEndgap s

end Sys2Proof.Machine
end

