-- ==== Sys2Proof/Machine/Timer.lean ====
section
/-! DEFINITION. The duration timer: what a tick does that is neither RESET nor an accepted START (42_pulse_timer.md R131,
R133, R134). -/

namespace Sys2Proof.Machine

open Sys2Proof

/-- Expiry: the next event is loaded in this same tick, or the run halts, or the slot entered faults (R134). -/
def expire (s : State) : Result :=
  match nextPosition s.pos with
  | none => .next s.halt
  | some p => issue (s.setPos p)

/-- The tick of a run: countdown, or else expiry (R131; TMR = 0 takes the else branch, entry 6). -/
def runTick (s : State) : Result :=
  if 1#14 < s.tmr then .next s.countdown else expire s

/-- A tick with no RESET and no accepted START (R131, 43_host_operations.md R143). -/
def plainTick (s : State) : Result :=
  s.guarded <|
    match s.st with
    | .idle => .next s
    | .run => runTick s
    | .done => .next s
    | .fault => .next s

end Sys2Proof.Machine
end

