-- ==== Sys2Proof/Machine/HostOps.lean ====
section
/-! DEFINITION. The host operations RESET, START, TICK (43_host_operations.md). -/

namespace Sys2Proof.Machine

open Sys2Proof

/-- RESET (R140): every register takes its reset value, from any state, a power-on state too (70_reset_and_hazards.md R181).
The samples of later ticks are the host's and stay. -/
def execReset (s : State) : Result := .next (State.reset.withInputs s.inputs)

/-- The last branch of START (R141): `ST <- RUN; pc <- (0, 0, 0); issue(0, 0, 0)`, which reads the cell just latched. -/
def beginRun (s : State) : Result :=
  issue ((s.setSt .run).setPos ⟨0#4, 0#5, 0#1⟩)

/-- An accepted START under a given FAULT_PREFIX (R141). -/
def startUnder (fp : FaultPrefix) (c x : CmdWord) (e : Bool) (s : State) : Result :=
  if e then .next ((s.latch c x).raise .length 0#5)
  else
    match firstSx x with
    | none => beginRun (s.latch c x)
    | some k =>
      match fp with
      | .prescan => .next ((s.latch c x).raise .symbol (BitVec.ofNat 5 k.val))
      | .lazy => beginRun (s.latch c x)

/-- START (R141); outside IDLE the request is ignored and the tick is a plain one (R142). -/
def execStart (c x : CmdWord) (e : Bool) (s : State) : Result :=
  match s.st with
  | .idle => s.guarded (startUnder Config.faultPrefix c x e s)
  | .run => plainTick s
  | .done => plainTick s
  | .fault => plainTick s

/-- TICK (R143). -/
def execTick (s : State) : Result := plainTick s

end Sys2Proof.Machine
end

