-- ==== Sys2Proof/Machine/Dispatch.lean ====
section
/-! DEFINITION. One arm per instruction. -/

namespace Sys2Proof.Machine

open Sys2Proof

def exec (i : Instr) (s : State) : Host.Outcome State Fault Refusal :=
  match i with
  | .sym0 => Sys2Proof.Machine.execSym0 s
  | .sym1 => Sys2Proof.Machine.execSym1 s
  | .symx => Sys2Proof.Machine.execSymx s
  | .trail => Sys2Proof.Machine.execTrail s
  | .gap => Sys2Proof.Machine.execGap s
  | .endgap => Sys2Proof.Machine.execEndgap s
  | .reset => Sys2Proof.Machine.execReset s
  | .start c x e => Sys2Proof.Machine.execStart c x e s
  | .tick => Sys2Proof.Machine.execTick s

end Sys2Proof.Machine
end

