-- ==== Sys2Proof/Machine/Fetch.lean ====
section
/-! DEFINITION. Where the next operation comes from: the ports of the tick, and for a slot operation the position and command
store it is formed from; and the placing of one operation there (entry 8). -/

namespace Sys2Proof.Machine

open Sys2Proof

/-- The host operation of this tick (30_encoding.md R81). -/
def State.fetch (s : State) : Instr := hostop s.st s.ports

/-- Put a HOSTOP on the ports of the next tick, the other ports 0; a START needs ST = IDLE (R81). -/
def State.placeHostop (s : State) (w : BitVec 2) : State :=
  { s with
    inputs := ⟨w.getLsbD 1, w.getLsbD 0, 0#24, 0#24, false⟩ :: s.inputs
    st := if w = 0b01#2 then .idle else s.st }

/-- The position whose expiry enters a slot of kind K at phase 0: symbol slot 1, the trailer, the gap, the end gap. -/
def positionBefore (k : BitVec 2) : Position :=
  if k = 0b00#2 then ⟨0#4, 0#5, 1#1⟩
  else if k = 0b01#2 then ⟨0#4, 23#5, 1#1⟩
  else if k = 0b10#2 then ⟨0#4, 24#5, 1#1⟩
  else ⟨Config.repeatCount - 1#4, 25#5, 0#1⟩

/-- A word with bit 22, the bit of symbol 1, set to b. -/
def setSymbol1 (w : CmdWord) (b : Bool) : CmdWord :=
  (w &&& 0xBFFFFF#24) ||| (if b then 0x400000#24 else 0#24)

/-- Put a UOP where the next tick forms it: in a run, in the last interval of the event before its slot, the cell of a symbol
slot in the command store (30_encoding.md R74), the ports at rest. -/
def State.placeUop (s : State) (w : BitVec 4) : State :=
  let k := w.extractLsb' 2 2
  let p := positionBefore k
  { s with
    resetSeen := true
    errkind := .none
    st := .run
    tmr := 1#14
    rep := p.rep
    slot := p.slot
    ph := p.ph
    cmd := if k = 0b00#2 then setSymbol1 s.cmd (w.getLsbD 0) else s.cmd
    cmdx := if k = 0b00#2 then setSymbol1 s.cmdx (w.getLsbD 1) else s.cmdx
    inputs := quiet :: s.inputs }

end Sys2Proof.Machine
end

