-- ==== Sys2Proof/Machine/Step.lean ====
section
/-! DEFINITION. One step is one tick (42_pulse_timer.md R131). -/

namespace Sys2Proof.Machine

open Sys2Proof

/-- Sample the ports of this tick, decode the host operation, run it (R131, 60_exceptions.md R158). -/
def step (s : State) : Host.Outcome State Fault Refusal := exec s.fetch s.consume

/-- `s` with a table word placed where the very next step runs it (entry 8); unchanged where the decoder rejects the word. -/
def State.withFetchWord (s : State) (nbits w : Nat) : State :=
  match decodeTable nbits w with
  | .error _ => s
  | .ok _ => if nbits = 2 then s.placeHostop (BitVec.ofNat 2 w) else s.placeUop (BitVec.ofNat 4 w)

end Sys2Proof.Machine
end

