-- ==== Sys2Proof/Laws/PerInstr.lean ====
section
/-! SUPPORT. Statements about every instruction, one lemma per constructor. -/

/-- In IDLE, where START can be selected, decoding the encoding of an instruction gives it back. -/
def Sys2Proof.Laws.RoundTrip.Statement (i : Sys2Proof.Instr) : Prop :=
  Sys2Proof.decode .idle (Sys2Proof.encode i) = i

theorem Sys2Proof.Laws.RoundTrip.sym0 : Sys2Proof.Laws.RoundTrip.Statement .sym0 := rfl
theorem Sys2Proof.Laws.RoundTrip.sym1 : Sys2Proof.Laws.RoundTrip.Statement .sym1 := rfl
theorem Sys2Proof.Laws.RoundTrip.symx : Sys2Proof.Laws.RoundTrip.Statement .symx := rfl
theorem Sys2Proof.Laws.RoundTrip.trail : Sys2Proof.Laws.RoundTrip.Statement .trail := rfl
theorem Sys2Proof.Laws.RoundTrip.gap : Sys2Proof.Laws.RoundTrip.Statement .gap := rfl
theorem Sys2Proof.Laws.RoundTrip.endgap : Sys2Proof.Laws.RoundTrip.Statement .endgap := rfl
theorem Sys2Proof.Laws.RoundTrip.reset : Sys2Proof.Laws.RoundTrip.Statement .reset := rfl
theorem Sys2Proof.Laws.RoundTrip.start (c x : Sys2Proof.CmdWord) (e : Bool) :
    Sys2Proof.Laws.RoundTrip.Statement (.start c x e) := rfl
theorem Sys2Proof.Laws.RoundTrip.tick : Sys2Proof.Laws.RoundTrip.Statement .tick := rfl
end

