-- ==== Sys2Proof/Machine/Flags.lean ====
section
/-! DEFINITION. The status flags and the output ports: functions of registers, none of an input (10_state.md R33, R34). -/

namespace Sys2Proof.Machine

open Sys2Proof

/-- BUSY (R33). -/
def State.busy (s : State) : Bool := s.st == .run

/-- DONE (R33). -/
def State.isDone (s : State) : Bool := s.st == .done

/-- ERR (R33). -/
def State.err (s : State) : Bool := s.st == .fault

/-- The output ports (R34). -/
structure Outputs where
  level_o   : BitVec 1
  tmr_o     : BitVec 14
  stb_o     : BitVec 1
  st_o      : BitVec 2
  busy_o    : BitVec 1
  done_o    : BitVec 1
  err_o     : BitVec 1
  errkind_o : BitVec 2
  erridx_o  : BitVec 5
  deriving DecidableEq, Repr

/-- What the host sees in an interval (R34, 43_host_operations.md R144). -/
def State.outputs (s : State) : Outputs where
  level_o   := s.level.bit
  tmr_o     := s.tmr
  stb_o     := BitVec.ofBool s.stb
  st_o      := s.st.code
  busy_o    := BitVec.ofBool s.busy
  done_o    := BitVec.ofBool s.isDone
  err_o     := BitVec.ofBool s.err
  errkind_o := s.errkind.code
  erridx_o  := s.erridx

end Sys2Proof.Machine
end

