-- ==== Sys2Proof/Machine/Reference.lean ====
section
/-! DEFINITION. The reference functions of the spec, pure: the grammar table (30_encoding.md R78), the event lists
(41_framing_sequencer.md R115, R116), positions and start ticks (R121), and the profile (42_pulse_timer.md R135). No operation of
the machine uses them; claims compare the machine with them. -/

namespace Sys2Proof.Machine

open Sys2Proof

/-- From operation and phase to pulse code (30_encoding.md R78): none where the operation issues no event. -/
def pulseOf (op : SlotOp) (ph : BitVec 1) : Option PulseCode :=
  match op with
  | .sym0 => if ph = 0#1 then some .hShort else some .lLong
  | .sym1 => if ph = 0#1 then some .hLong else some .lShort
  | .symx => none
  | .trail => if ph = 0#1 then some .hShort else some .lLong
  | .gap => if ph = 0#1 then some .lSil else none
  | .endgap => if ph = 0#1 then some .lSil else none

/-- `event(pc)`: the event issued at a position with a given command store (R121), none at a slot of class SX. -/
def eventAt (c x : CmdWord) (p : Position) : Option Event :=
  (pulseOf (decodeUop (uop c x p.rep p.slot)) p.ph).map pulseEvent

/-- H(390), L(1030), H(1030), L(390), L(9920), by their names (00_scope.md R12). -/
def evHShort : Event := ⟨.high, Config.short⟩
def evHLong : Event := ⟨.high, Config.long⟩
def evLShort : Event := ⟨.low, Config.short⟩
def evLLong : Event := ⟨.low, Config.long⟩
def evLSil : Event := ⟨.low, Config.radioSilence⟩

/-- `pair` of R115; class SX has no events. -/
def pairOf : SymClass → List Event
  | .s0 => [evHShort, evLLong]
  | .s1 => [evHLong, evLShort]
  | .sx => []

/-- The pairs of symbols 0 to k - 1 (R116). -/
def pairsBefore (c x : CmdWord) (k : Nat) : List Event :=
  ((List.finRange 24).take k).flatMap fun i => pairOf (symClass c x i)

/-- `frame(c)`, for a command whose 24 cells are S0 or S1 (R115). -/
def frame (c : CmdWord) : List Event :=
  pairsBefore c 0#24 24 ++ [evHShort, evLLong] ++ [evLSil]

/-- `transmission(c)` (R116). -/
def transmission (c : CmdWord) : List Event :=
  (List.replicate Config.constants.repeatCount (frame c)).flatten ++ [evLSil]

/-- The status a run ends with (R116): Ok for ST = DONE, or the fault's kind and index. -/
inductive Verdict where
  | ok
  | err (kind : ErrKind) (idx : BitVec 5)
  deriving DecidableEq, Repr

/-- `encode(c, x, e)` under a given FAULT_PREFIX (R116). -/
def encodeCommand (fp : FaultPrefix) (c x : CmdWord) (e : Bool) : List Event × Verdict :=
  if e then ([], .err .length 0#5)
  else
    match firstSx x with
    | none => (transmission c, .ok)
    | some k =>
      match fp with
      | .prescan => ([], .err .symbol (BitVec.ofNat 5 k.val))
      | .lazy => (pairsBefore c x k.val, .err .symbol (BitVec.ofNat 5 k.val))

/-- The sum of the durations of a list of events, in ticks (42_pulse_timer.md R135, R136). -/
def totalTicks (es : List Event) : Nat := (es.map fun e => e.dur.toNat).sum

/-- The ticks for which a list of events holds the level HIGH (40_symbol_mapper.md R104). -/
def highTicks (es : List Event) : Nat := totalTicks (es.filter fun e => e.level == .high)

/-- The number of `1` symbols of a command (R104). -/
def ones (c : CmdWord) : Nat := ((List.finRange 24).filter fun i => c.getLsbD (23 - i.val)).length

/-- `level_o` n intervals after the start of a list of events, LOW after its end (42_pulse_timer.md R135). -/
def profileAt : List Event → Nat → Level
  | [], _ => .low
  | e :: es, n => if n < e.dur.toNat then e.level else profileAt es (n - e.dur.toNat)

/-- The events of a frame: two for each of the 24 symbols, two of the trailer, one of the gap (41_framing_sequencer.md R115). -/
def frameEvents : Nat := 24 * 2 + 2 + 1

/-- The number of the end gap's event, after those of all repetitions (41_framing_sequencer.md R116, R121). -/
def lastEvent : Nat := Config.constants.repeatCount * frameEvents

/-- The ticks of a symbol slot or of the trailer slot (42_pulse_timer.md R137). -/
def slotTicks : Nat := Config.constants.short + Config.constants.long

/-- The ticks of a frame: 25 two-event slots and the gap (42_pulse_timer.md R137). -/
def frameTicks : Nat := 25 * slotTicks + Config.constants.radioSilence

/-- The position of event j of a transmission, j from 0 to `lastEvent` (41_framing_sequencer.md R121). -/
def positionAt (j : Nat) : Position :=
  if j = lastEvent then ⟨Config.repeatCount, 25#5, 0#1⟩
  else if j % frameEvents = frameEvents - 1 then ⟨BitVec.ofNat 4 (j / frameEvents), 25#5, 0#1⟩
  else ⟨BitVec.ofNat 4 (j / frameEvents), BitVec.ofNat 5 (j % frameEvents / 2), BitVec.ofNat 1 (j % frameEvents % 2)⟩

/-- The event number of a position (R121, read from position to number). -/
def positionIndex (p : Position) : Nat :=
  if p.rep = Config.repeatCount then lastEvent else frameEvents * p.rep.toNat + 2 * p.slot.toNat + p.ph.toNat

/-- Whether the symbol of a slot is `1`, false for slots that read no symbol. -/
def slotIsOne (c : CmdWord) (slot : Nat) : Bool := decide (slot < 24) && c.getLsbD (23 - slot)

/-- The ticks from the start of a two-event slot to its second event: the duration of its first (R121). -/
def firstTicks (c : CmdWord) (slot : Nat) : Nat :=
  if slotIsOne c slot then Config.constants.long else Config.constants.short

/-- `start(j)`: the ticks from START to the load of event j (R121), for a well-formed command: the frames before it, the slots
before it in its frame, and the slot's first event if it is the second. -/
def startTick (c : CmdWord) (j : Nat) : Nat :=
  frameTicks * (j / frameEvents) + slotTicks * (j % frameEvents / 2) +
    (if j % frameEvents % 2 = 1 then firstTicks c (j % frameEvents / 2) else 0)

/-- The events of the first n positions, with a given command store. -/
def eventsUpTo (c x : CmdWord) (n : Nat) : List Event :=
  (List.range n).filterMap fun j => eventAt c x (positionAt j)

end Sys2Proof.Machine
end

