-- ==== Sys2Proof/Safety.lean ====
section
/-! DEFINITION. The terms of claims: runs, reachable states, the invariant of the machine, the table of 10_state.md R38. -/

namespace Sys2Proof.Machine

open Sys2Proof

/-- n ticks, stopping at the first stop. -/
def runTicks : Nat → State → Host.Outcome State Fault Refusal
  | 0, s => .next s
  | n + 1, s =>
    match step s with
    | .next t => runTicks n t
    | .fault r => .fault r
    | .refused r => .refused r

/-- The states a block can be in after a reset, whatever the host does: reset with any samples to come, and every step. -/
inductive Reachable : State → Prop where
  | reset (ins : List Inputs) : Reachable (State.reset.withInputs ins)
  | step (s t : State) : Reachable s → Machine.step s = .next t → Reachable t

/-- Output at rest: TMR = 0, LEVEL = LOW, STB = 0. -/
def State.atRest (s : State) : Prop := s.tmr = 0#14 ∧ s.level = .low ∧ s.stb = false

/-- The registers of the wire and the position name the same event: the level is the event's, the timer is within its duration,
and the strobe is 1 exactly in its first interval (10_state.md R27 to R30). -/
def State.onWire (s : State) (ev : Event) : Prop :=
  s.level = ev.level ∧ 1 ≤ s.tmr.toNat ∧ s.tmr.toNat ≤ ev.dur.toNat ∧ (s.stb = true ↔ s.tmr = ev.dur)

/-- The symbols met so far are not SX: those of slots below and at SLOT, all 24 once SLOT is past 23 or REP past 0. -/
def State.metValid (s : State) : Prop :=
  ∀ i : SymIdx, (i.val ≤ s.slot.toNat ∨ 0 < s.rep.toNat) → s.cmdx.getLsbD (23 - i.val) = false

/-- The invariant of the machine, ST by ST: 10_state.md R38, strengthened so that a step keeps it (TRACE is said in full in RUN,
and the two causes of FAULT with their trace and position). -/
def Inv (s : State) : Prop :=
  s.resetSeen = true ∧
    match s.st with
    | .idle =>
      s.pos = ⟨0#4, 0#5, 0#1⟩ ∧ s.atRest ∧ s.errkind = .none ∧ s.erridx = 0#5 ∧ s.cmd = 0#24 ∧ s.cmdx = 0#24 ∧ s.trace = []
    | .run =>
      positionLegal s.pos = true ∧ (∃ ev, eventAt s.cmd s.cmdx s.pos = some ev ∧ s.onWire ev) ∧
        s.errkind = .none ∧ s.erridx = 0#5 ∧ s.metValid ∧ (Config.faultPrefix = .prescan → s.cmdx = 0#24) ∧
        s.trace = eventsUpTo s.cmd s.cmdx (positionIndex s.pos + 1)
    | .done =>
      s.pos = ⟨Config.repeatCount, 25#5, 0#1⟩ ∧ s.atRest ∧ s.errkind = .none ∧ s.erridx = 0#5 ∧ s.cmdx = 0#24 ∧
        s.trace = transmission s.cmd
    | .fault =>
      s.atRest ∧
        ((s.errkind = .length ∧ s.erridx = 0#5 ∧ s.pos = ⟨0#4, 0#5, 0#1⟩ ∧ s.trace = []) ∨
          (s.errkind = .symbol ∧ ∃ k, firstSx s.cmdx = some k ∧ s.erridx = BitVec.ofNat 5 k.val ∧
            match Config.faultPrefix with
            | .prescan => s.pos = ⟨0#4, 0#5, 0#1⟩ ∧ s.trace = []
            | .lazy => s.pos = ⟨0#4, BitVec.ofNat 5 k.val, 0#1⟩ ∧ s.trace = pairsBefore s.cmd s.cmdx k.val))

/-- The IDLE row of 10_state.md R38. -/
def idleRow (s : State) : Prop :=
  s.pos = ⟨0#4, 0#5, 0#1⟩ ∧ s.tmr = 0#14 ∧ s.level = .low ∧ s.stb = false ∧ s.errkind = .none ∧ s.erridx = 0#5 ∧
    s.cmd = 0#24 ∧ s.cmdx = 0#24 ∧ s.trace = []

/-- The RUN row of 10_state.md R38. -/
def runRow (s : State) : Prop :=
  1 ≤ s.tmr.toNat ∧ s.tmr.toNat ≤ Config.constants.radioSilence ∧ s.rep.toNat ≤ Config.constants.repeatCount ∧ s.slot.toNat ≤ 25 ∧
    (s.ph = 1#1 → s.slot.toNat ≤ 24) ∧ (s.rep = Config.repeatCount → s.slot = 25#5) ∧
    (∃ ev, eventAt s.cmd s.cmdx s.pos = some ev ∧ s.level = ev.level ∧ s.tmr.toNat ≤ ev.dur.toNat ∧
      (s.stb = true → s.tmr = ev.dur) ∧ s.trace.getLast? = some ev) ∧
    (s.level = .high → s.ph = 0#1 ∧ s.slot.toNat ≤ 24) ∧ s.errkind = .none ∧
    (∀ i : SymIdx, (i.val < s.slot.toNat ∨ 0 < s.rep.toNat ∨ 24 ≤ s.slot.toNat) → symClass s.cmd s.cmdx i ≠ .sx)

/-- The DONE row of 10_state.md R38. -/
def doneRow (s : State) : Prop :=
  s.pos = ⟨Config.repeatCount, 25#5, 0#1⟩ ∧ s.tmr = 0#14 ∧ s.level = .low ∧ s.stb = false ∧ s.errkind = .none ∧
    s.cmdx = 0#24 ∧ s.trace = transmission s.cmd ∧ s.trace.length = lastEvent + 1

/-- The FAULT row of 10_state.md R38. -/
def faultRow (s : State) : Prop :=
  s.tmr = 0#14 ∧ s.level = .low ∧ s.stb = false ∧ (s.errkind = .length ∨ s.errkind = .symbol) ∧ s.rep = 0#4 ∧ s.ph = 0#1 ∧
    ∃ k : Nat, k ≤ 23 ∧ s.slot.toNat = k ∧ s.trace = pairsBefore s.cmd s.cmdx k ∧ s.trace.length = 2 * k ∧
      (s.errkind = .length → k = 0) ∧ (Config.faultPrefix = .prescan → k = 0) ∧
      (Config.faultPrefix = .lazy → k = s.erridx.toNat)

/-- The table of 10_state.md R38 and the line under it. -/
def stateTable (s : State) : Prop :=
  (match s.st with
    | .idle => idleRow s
    | .run => runRow s
    | .done => doneRow s
    | .fault => faultRow s) ∧
    (s.level = .high → s.st = .run) ∧ (s.stb = true → s.st = .run)

/-- The status a finished run shows, as a verdict (41_framing_sequencer.md R116): Ok for ST = DONE, the error registers for
ST = FAULT, none while the run goes on. -/
def State.verdict (s : State) : Option Verdict :=
  match s.st with
  | .idle => none
  | .run => none
  | .done => some .ok
  | .fault => some (.err s.errkind s.erridx)

/-- A START on the ports: rst_i = 0, start_i = 1 and the command. -/
def startPorts (c x : CmdWord) (e : Bool) : Inputs := ⟨false, true, c, x, e⟩

end Sys2Proof.Machine
end

