-- ==== Sys2Proof/Certificates/Slice0/Obligations.lean ====
section
/-! DEFINITION. The statements for the provers. A docstring names the rule a statement formalises, or says that it is derived. -/

open Sys2Proof Sys2Proof.Machine

/-! ### Encoding -/

/-- 30_encoding.md R73: the six rows, one row for each of the 16 words, and the words the sequencer forms. -/
def Obligations.UopWordSelectsItsRow : Prop :=
  ∀ w : BitVec 4,
    (decodeUop w = .sym0 ↔ w &&& 0xF#4 = 0x0#4) ∧
    (decodeUop w = .sym1 ↔ w &&& 0xF#4 = 0x1#4) ∧
    (decodeUop w = .symx ↔ w &&& 0xE#4 = 0x2#4) ∧
    (decodeUop w = .trail ↔ w &&& 0xC#4 = 0x4#4) ∧
    (decodeUop w = .gap ↔ w &&& 0xC#4 = 0x8#4) ∧
    (decodeUop w = .endgap ↔ w &&& 0xC#4 = 0xC#4) ∧
    (uopTable.filter fun r => r.selects w).length = 1 ∧
    ∀ (c x : CmdWord) (rep : BitVec 4) (slot : BitVec 5),
      uop c x rep slot ∈ [0x0#4, 0x1#4, 0x2#4, 0x3#4, 0x4#4, 0x8#4, 0xC#4]

/-- 30_encoding.md R81: the four rows of the table on the ports, and the two-bit pattern. -/
def Obligations.HostopSelectsItsOperation : Prop :=
  ∀ (st : RunState) (p : Inputs),
    (p.rst_i = true → hostop st p = .reset) ∧
    (p.rst_i = false → p.start_i = true → st = .idle → hostop st p = .start p.cmd_i p.cmdx_i p.lenerr_i) ∧
    (p.rst_i = false → p.start_i = true → st ≠ .idle → hostop st p = .tick) ∧
    (p.rst_i = false → p.start_i = false → hostop st p = .tick) ∧
    decodeHostop st (hostopWord p) p.cmd_i p.cmdx_i p.lenerr_i = hostop st p ∧
    ∀ w : BitVec 2,
      (w &&& 0x2#2 = 0x2#2 → decodeHostop st w p.cmd_i p.cmdx_i p.lenerr_i = .reset) ∧
      (w &&& 0x3#2 = 0x1#2 → st = .idle →
        decodeHostop st w p.cmd_i p.cmdx_i p.lenerr_i = .start p.cmd_i p.cmdx_i p.lenerr_i) ∧
      (w &&& 0x3#2 = 0x1#2 → st ≠ .idle → decodeHostop st w p.cmd_i p.cmdx_i p.lenerr_i = .tick) ∧
      (w &&& 0x3#2 = 0x0#2 → decodeHostop st w p.cmd_i p.cmdx_i p.lenerr_i = .tick)

/-- Derived (30_encoding.md section 3 and R81): decoding an encoded instruction gives it back in every run state, but that the
code of START is a TICK outside IDLE; encoding a decoded word gives it back with the ignored bits 0. -/
def Obligations.DecodeAndEncodeAgree : Prop :=
  (∀ i : Instr, Sys2Proof.Laws.RoundTrip.Statement i) ∧
  (∀ (st : RunState) (i : Instr), (∀ c x e, i ≠ .start c x e) → decode st (encode i) = i) ∧
  (∀ (st : RunState) (c x : CmdWord) (e : Bool),
    decode st (encode (.start c x e)) = if st = .idle then .start c x e else .tick) ∧
  (∀ w : BitVec 4, ∀ r ∈ uopTable, r.selects w = true → encode (decode .idle (.uop w)) = .uop (w &&& r.mask))

/-- Derived (30_encoding.md R73, R81 for the bits; the rest is the model's choice): words written out from the encodings, a
sanity statement. That a table word of two bits is read as a HOSTOP, for a block in IDLE and with START's operands 0, 0 and false,
and one of four bits as a UOP, is assumption log entry 7 (DESIGN CHOICE). -/
def Obligations.WrittenWordsDecode : Prop :=
  decodeTableWord 4 0b0000 = some .sym0 ∧ decodeTableWord 4 0b0001 = some .sym1 ∧
  decodeTableWord 4 0b0011 = some .symx ∧ decodeTableWord 4 0b0100 = some .trail ∧
  decodeTableWord 4 0b1000 = some .gap ∧ decodeTableWord 4 0b1100 = some .endgap ∧
  decodeTableWord 2 0b10 = some .reset ∧ decodeTableWord 2 0b01 = some (.start 0#24 0#24 false) ∧
  decodeTableWord 2 0b00 = some .tick

/-- 20_memory.md R51 and R52: the cell of symbol i and its class, the class alone selecting the operation, and the two strings
of R51. -/
def Obligations.SymbolCellAndClass : Prop :=
  (∀ (c x : CmdWord) (i : SymIdx),
    memRead c x i = BitVec.ofBool (x.getLsbD (23 - i.val)) ++ BitVec.ofBool (c.getLsbD (23 - i.val)) ∧
    (symClass c x i = .s0 ↔ x.getLsbD (23 - i.val) = false ∧ c.getLsbD (23 - i.val) = false) ∧
    (symClass c x i = .s1 ↔ x.getLsbD (23 - i.val) = false ∧ c.getLsbD (23 - i.val) = true) ∧
    (symClass c x i = .sx ↔ x.getLsbD (23 - i.val) = true)) ∧
  (∀ a b : BitVec 2, classOf a = classOf b → decodeUop (0b00#2 ++ a) = decodeUop (0b00#2 ++ b)) ∧
  commandOfString ('1' :: List.replicate 23 '0') = some 0x800000#24 ∧
  commandOfString (List.replicate 23 '0' ++ ['1']) = some 0x000001#24

/-- 30_encoding.md R74: which UOP stands at which position. -/
def Obligations.UopAtPosition : Prop :=
  ∀ (c x : CmdWord) (rep : BitVec 4) (slot : BitVec 5),
    (rep = Config.repeatCount → uop c x rep slot = 0b1100#4) ∧
    (∀ h : slot.toNat < 24, rep ≠ Config.repeatCount →
      uop c x rep slot = 0b00#2 ++ memRead c x ⟨slot.toNat, h⟩) ∧
    (rep ≠ Config.repeatCount → slot = 24#5 → uop c x rep slot = 0b0100#4) ∧
    (rep ≠ Config.repeatCount → slot = 25#5 → uop c x rep slot = 0b1000#4)

/-- 20_memory.md R55: the three ROM words; the fourth address has no value. -/
def Obligations.RomWordsAndTheReservedAddress : Prop :=
  romAt 0b00#2 = some 390#14 ∧ romAt 0b01#2 = some 1030#14 ∧ romAt 0b10#2 = some 9920#14 ∧ romAt 0b11#2 = none

/-- 30_encoding.md R75, R76, R77: the used pulse codes and their events, the reserved ones, the event words, and the word on the ports
in the interval of an event's load. -/
def Obligations.PulseCodesAndEventWords : Prop :=
  (PulseCode.ofCode 0b100#3).map pulseEvent = some ⟨.high, 390#14⟩ ∧
  (PulseCode.ofCode 0b101#3).map pulseEvent = some ⟨.high, 1030#14⟩ ∧
  (PulseCode.ofCode 0b000#3).map pulseEvent = some ⟨.low, 390#14⟩ ∧
  (PulseCode.ofCode 0b001#3).map pulseEvent = some ⟨.low, 1030#14⟩ ∧
  (PulseCode.ofCode 0b010#3).map pulseEvent = some ⟨.low, 9920#14⟩ ∧
  PulseCode.ofCode 0b110#3 = none ∧ PulseCode.ofCode 0b011#3 = none ∧ PulseCode.ofCode 0b111#3 = none ∧
  (∀ p : PulseCode, PulseCode.ofCode p.code = some p ∧ p.code = p.level.bit ++ p.dsel.code ∧
    romAt (p.code.extractLsb' 0 2) = some (pulseEvent p).dur ∧
    (pulseEvent p).word = p.code.extractLsb' 2 1 ++ (pulseEvent p).dur) ∧
  (⟨.high, 390#14⟩ : Event).word = 0x4186#15 ∧ (⟨.high, 1030#14⟩ : Event).word = 0x4406#15 ∧
  (⟨.low, 390#14⟩ : Event).word = 0x0186#15 ∧ (⟨.low, 1030#14⟩ : Event).word = 0x0406#15 ∧
  (⟨.low, 9920#14⟩ : Event).word = 0x26C0#15 ∧
  ∀ (s : State) (p : PulseCode), (s.emit p.level (rom p.dsel)).outputs.stb_o = 1#1 ∧
    (s.emit p.level (rom p.dsel)).outputs.level_o ++ (s.emit p.level (rom p.dsel)).outputs.tmr_o = (pulseEvent p).word

/-! ### The step and the operation it runs -/

/-- Derived (42_pulse_timer.md R131, 30_encoding.md R81, R73): a step runs the host operation the ports select, of the state
with this tick's sample used up; an event that expires, and an accepted START, run the slot operation that the UOP at the new
position decodes to. -/
def Obligations.StepRunsTheDecodedOperation : Prop :=
  (∀ s : State, step s = exec (hostop s.st s.ports) s.consume) ∧
  (∀ (s : State) (p : Position), s.ready → s.st = .run → s.tmr = 1#14 → nextPosition s.pos = some p →
    exec .tick s = exec (decodeUop (uop s.cmd s.cmdx p.rep p.slot)).toInstr (s.setPos p)) ∧
  (∀ (s : State) (c : CmdWord), s.ready → s.st = .idle →
    exec (.start c 0#24 false) s =
      exec (decodeUop (uop c 0#24 0#4 0#5)).toInstr (((s.latch c 0#24).setSt .run).setPos ⟨0#4, 0#5, 0#1⟩))

/-! ### The slot operations -/

/-- Derived (40_symbol_mapper.md section 2, SYM0): HIGH for SHORT, then LOW for LONG; nothing else changes. -/
def Obligations.Sym0IssuesHighShortThenLowLong : Prop :=
  ∀ s : State,
    (s.ph = 0#1 → exec .sym0 s =
      .next { s with level := .high, tmr := 390#14, stb := true, trace := s.trace ++ [⟨.high, 390#14⟩] }) ∧
    (s.ph = 1#1 → exec .sym0 s =
      .next { s with level := .low, tmr := 1030#14, stb := true, trace := s.trace ++ [⟨.low, 1030#14⟩] })

/-- Derived (40_symbol_mapper.md section 2, SYM1): HIGH for LONG, then LOW for SHORT; nothing else changes. -/
def Obligations.Sym1IssuesHighLongThenLowShort : Prop :=
  ∀ s : State,
    (s.ph = 0#1 → exec .sym1 s =
      .next { s with level := .high, tmr := 1030#14, stb := true, trace := s.trace ++ [⟨.high, 1030#14⟩] }) ∧
    (s.ph = 1#1 → exec .sym1 s =
      .next { s with level := .low, tmr := 390#14, stb := true, trace := s.trace ++ [⟨.low, 390#14⟩] })

/-- Derived (40_symbol_mapper.md section 2, SYMX; 60_exceptions.md R160): fault entry with the slot index; no event; the
position, the command store and TRACE keep their values. -/
def Obligations.SymxRaisesWithTheSlotIndex : Prop :=
  ∀ s : State, exec .symx s =
    .next { s with st := .fault, level := .low, tmr := 0#14, stb := false, errkind := .symbol, erridx := s.slot }

/-- Derived (41_framing_sequencer.md section 1, TRAIL): the pair of a `0`, unconditionally; nothing else changes. -/
def Obligations.TrailIssuesHighShortThenLowLong : Prop :=
  ∀ s : State,
    (s.ph = 0#1 → exec .trail s =
      .next { s with level := .high, tmr := 390#14, stb := true, trace := s.trace ++ [⟨.high, 390#14⟩] }) ∧
    (s.ph = 1#1 → exec .trail s =
      .next { s with level := .low, tmr := 1030#14, stb := true, trace := s.trace ++ [⟨.low, 1030#14⟩] })

/-- Derived (41_framing_sequencer.md section 1, GAP and ENDGAP): each is one LOW event of RADIO_SILENCE; nothing else changes. The
spec gives this for phase 0, the only phase of their slots; that `exec` does the same at PH = 1 is the model's reading of the
pseudocode (assumption log entry 13, DEDUCED), and no step executes them there. -/
def Obligations.GapAndEndgapIssueSilence : Prop :=
  ∀ s : State,
    exec .gap s =
      .next { s with level := .low, tmr := 9920#14, stb := true, trace := s.trace ++ [⟨.low, 9920#14⟩] } ∧
    exec .endgap s =
      .next { s with level := .low, tmr := 9920#14, stb := true, trace := s.trace ++ [⟨.low, 9920#14⟩] }

/-- Derived (10_state.md section 6, its last line): no slot operation writes the command store, the position or a sample, and
only SYMX writes ST or an error register, SYMX appends nothing to TRACE, and the others append the event they load. -/
def Obligations.SlotOperationsLeaveTheRest : Prop :=
  ∀ (op : SlotOp) (s t : State), exec op.toInstr s = .next t →
    t.cmd = s.cmd ∧ t.cmdx = s.cmdx ∧ t.pos = s.pos ∧ t.inputs = s.inputs ∧ t.resetSeen = s.resetSeen ∧
    (op ≠ .symx → t.st = s.st ∧ t.errkind = s.errkind ∧ t.erridx = s.erridx ∧ t.trace = s.trace ++ [⟨t.level, t.tmr⟩] ∧
      t.stb = true) ∧
    (op = .symx → t.trace = s.trace)

/-- 40_symbol_mapper.md R105: at two symbol slots with cells of one class and in one phase, whatever else differs, the mapper
does the same: it loads one event, the same in both, or raises in both. -/
def Obligations.MapperDependsOnClassAndPhaseOnly : Prop :=
  ∀ (s u : State) (hs : s.slot.toNat < 24) (hu : u.slot.toNat < 24),
    s.rep ≠ Config.repeatCount → u.rep ≠ Config.repeatCount → s.ph = u.ph →
    symClass s.cmd s.cmdx ⟨s.slot.toNat, hs⟩ = symClass u.cmd u.cmdx ⟨u.slot.toNat, hu⟩ →
    (∃ ev : Event, exec s.slotOp.toInstr s = .next (s.emit ev.level ev.dur) ∧
      exec u.slotOp.toInstr u = .next (u.emit ev.level ev.dur)) ∨
    (exec s.slotOp.toInstr s = .next (s.raise .symbol s.slot) ∧
      exec u.slotOp.toInstr u = .next (u.raise .symbol u.slot))

/-- 30_encoding.md R78: the grammar table. What an operation issues in a phase, as a pulse code, for every row. -/
def Obligations.GrammarTableHolds : Prop :=
  (∀ (op : SlotOp) (s : State) (p : PulseCode), pulseOf op s.ph = some p →
    exec op.toInstr s = .next (s.emit p.level (rom p.dsel))) ∧
  pulseOf .sym0 0#1 = some .hShort ∧ pulseOf .sym0 1#1 = some .lLong ∧
  pulseOf .sym1 0#1 = some .hLong ∧ pulseOf .sym1 1#1 = some .lShort ∧
  pulseOf .symx 0#1 = none ∧ pulseOf .symx 1#1 = none ∧
  (∀ s : State, exec .symx s = .next (s.raise .symbol s.slot)) ∧
  pulseOf .trail 0#1 = some .hShort ∧ pulseOf .trail 1#1 = some .lLong ∧
  pulseOf .gap 0#1 = some .lSil ∧ pulseOf .gap 1#1 = none ∧
  pulseOf .endgap 0#1 = some .lSil ∧ pulseOf .endgap 1#1 = none

/-! ### Control flow -/

/-- 41_framing_sequencer.md R113: the five cases of the next-position function, and that it is applied at expiry and is the only
thing that changes the position during a run. -/
def Obligations.NextPositionFollowsTheFiveCases : Prop :=
  (∀ (rep : BitVec 4) (slot : BitVec 5),
    (slot.toNat ≤ 24 → nextPosition ⟨rep, slot, 0#1⟩ = some ⟨rep, slot, 1#1⟩) ∧
    (slot.toNat ≤ 24 → nextPosition ⟨rep, slot, 1#1⟩ = some ⟨rep, slot + 1#5, 0#1⟩) ∧
    (rep.toNat < 9 → nextPosition ⟨rep, 25#5, 0#1⟩ = some ⟨rep + 1#4, 0#5, 0#1⟩) ∧
    nextPosition ⟨9#4, 25#5, 0#1⟩ = some ⟨10#4, 25#5, 0#1⟩ ∧
    nextPosition ⟨10#4, 25#5, 0#1⟩ = none) ∧
  (∀ s t : State, step s = .next t → s.st = .run → s.ports.rst_i = false →
    (1 < s.tmr.toNat ∧ t.pos = s.pos) ∨
    (s.tmr.toNat ≤ 1 ∧ nextPosition s.pos = none ∧ t.pos = s.pos) ∨
    (s.tmr.toNat ≤ 1 ∧ nextPosition s.pos = some t.pos))

/-- Derived (10_state.md R27, 41_framing_sequencer.md R121): the positions are a chain of 511, from (0, 0, 0) to (10, 25, 0),
each exactly once, walked in order by the next-position function, which halts after the last. -/
def Obligations.PositionsFormOneChain : Prop :=
  positionAt 0 = ⟨0#4, 0#5, 0#1⟩ ∧ positionAt 510 = ⟨10#4, 25#5, 0#1⟩ ∧
  (∀ j < 510, nextPosition (positionAt j) = some (positionAt (j + 1))) ∧
  nextPosition (positionAt 510) = none ∧
  (∀ j ≤ 510, positionIndex (positionAt j) = j) ∧
  (∀ p : Position, positionLegal p = true ↔ ∃ j ≤ 510, p = positionAt j)

/-- 41_framing_sequencer.md R114: the tick in which the ENDGAP event expires halts, which the outputs show; everything else keeps
its value, LEVEL was already LOW in every state that meets the invariant, and after it the block does nothing until reset. -/
def Obligations.EndgapExpiryHalts : Prop :=
  (∀ s : State, s.ready → s.st = .run → s.tmr = 1#14 → s.pos = ⟨Config.repeatCount, 25#5, 0#1⟩ →
    (∃ t, exec .tick s = .next t ∧ t = { s with st := .done, level := .low, tmr := 0#14, stb := false } ∧
      t.outputs.done_o = 1#1 ∧ t.outputs.busy_o = 0#1) ∧
    (Inv s → s.level = .low)) ∧
  (∀ s : State, s.ready → s.st = .done → s.ports.rst_i = false → step s = .next s.consume)

/-- Derived (20_memory.md R57): every repetition issues the same events: the event at a position depends on its place in the
frame only. -/
def Obligations.RepetitionsAreAlike : Prop :=
  ∀ (c x : CmdWord) (j : Nat), j ≤ 509 →
    eventAt c x (positionAt j) = eventAt c x (positionAt (j % 51)) ∧
    (x = 0#24 → ∃ ev, eventAt c x (positionAt j) = some ev)

/-! ### The timer and TICK -/

/-- 42_pulse_timer.md R133: one tick of countdown, with everything else kept; and an event of duration d shows TMR = d - i in
interval i after its load, with LEVEL constant and STB = 1 in its first interval only. -/
def Obligations.CountdownOfAnEvent : Prop :=
  (∀ s : State, s.ready → s.st = .run → 1 < s.tmr.toNat →
    exec .tick s = .next { s with tmr := s.tmr - 1#14, stb := false }) ∧
  (∀ (s : State) (i : Nat), s.ready → s.st = .run → s.stb = true → i < s.tmr.toNat →
    (∀ p ∈ s.inputs.take i, p.rst_i = false) →
    ∃ t, runTicks i s = .next t ∧ t.tmr.toNat = s.tmr.toNat - i ∧ t.level = s.level ∧ t.pos = s.pos ∧ t.st = .run ∧
      t.trace = s.trace ∧ t.cmd = s.cmd ∧ t.cmdx = s.cmdx ∧ (t.stb = true ↔ i = 0))

/-- Derived (42_pulse_timer.md R134): in the tick in which an event expires the event at the next position is loaded, position,
LEVEL, TMR, STB and TRACE together; nothing else changes. -/
def Obligations.ExpiryLoadsTheNextEvent : Prop :=
  ∀ (s : State) (p : Position) (ev : Event), s.ready → s.st = .run → s.tmr = 1#14 → nextPosition s.pos = some p →
    eventAt s.cmd s.cmdx p = some ev →
    exec .tick s = .next
      { s with
        rep := p.rep, slot := p.slot, ph := p.ph
        level := ev.level, tmr := ev.dur, stb := true, trace := s.trace ++ [ev] }

/-- Derived (10_state.md R36, 60_exceptions.md R160): a tick whose expiry enters a symbol slot of class SX takes the fault entry
with that slot's index and stays at that position. -/
def Obligations.ExpiryIntoABadSymbolFaults : Prop :=
  ∀ (s : State) (p : Position) (h : p.slot.toNat < 24), s.ready → s.st = .run → s.tmr = 1#14 →
    nextPosition s.pos = some p → p.rep ≠ Config.repeatCount → symClass s.cmd s.cmdx ⟨p.slot.toNat, h⟩ = .sx →
    exec .tick s = .next
      { s with
        rep := p.rep, slot := p.slot, ph := p.ph
        st := .fault, level := .low, tmr := 0#14, stb := false, errkind := .symbol, erridx := p.slot }

/-- Derived (43_host_operations.md R143): outside a run a TICK changes nothing. -/
def Obligations.TickOutsideARunChangesNothing : Prop :=
  ∀ s : State, s.ready → s.st ≠ .run → exec .tick s = .next s

/-- Derived (42_pulse_timer.md R136): what a step can do to TMR. It is loaded only with 390, 1030 or 9920, decremented only when
it is greater than 1, cleared, or kept. -/
def Obligations.TimerIsLoadedOrCountsDown : Prop :=
  ∀ s t : State, step s = .next t →
    t.tmr = s.tmr ∨ (1 < s.tmr.toNat ∧ t.tmr.toNat = s.tmr.toNat - 1) ∨ t.tmr = 390#14 ∨ t.tmr = 1030#14 ∨
      t.tmr = 9920#14 ∨ t.tmr = 0#14

/-! ### START, RESET and their priority -/

/-- 43_host_operations.md R141: the accepted START. LENGTH first; under PRESCAN the first mark; otherwise the run begins at
(0, 0, 0) with the first event of the command being latched, or the fault of its symbol 0. The latch happens in every case, and
ST leaves IDLE in every case. -/
def Obligations.StartFollowsItsRule : Prop :=
  ∀ (s : State) (c x : CmdWord), s.ready → s.st = .idle →
    (∀ (e : Bool) (t : State), exec (.start c x e) s = .next t → t.st ≠ .idle) ∧
    exec (.start c x true) s = .next
      { s with
        cmd := c, cmdx := x
        st := .fault, level := .low, tmr := 0#14, stb := false, errkind := .length, erridx := 0#5 } ∧
    (x = 0#24 →
      exec (.start c x false) s = .next
        { s with
          cmd := c, cmdx := x, st := .run, rep := 0#4, slot := 0#5, ph := 0#1
          level := .high, tmr := if c.getLsbD 23 then 1030#14 else 390#14, stb := true
          trace := s.trace ++ [⟨.high, if c.getLsbD 23 then 1030#14 else 390#14⟩] }) ∧
    (∀ k : SymIdx, x.getLsbD (23 - k.val) = true → (∀ j : SymIdx, j.val < k.val → x.getLsbD (23 - j.val) = false) →
      exec (.start c x false) s = .next
        (if Config.faultPrefix = .prescan then
          { s with
            cmd := c, cmdx := x
            st := .fault, level := .low, tmr := 0#14, stb := false, errkind := .symbol, erridx := BitVec.ofNat 5 k.val }
        else if k.val = 0 then
          { s with
            cmd := c, cmdx := x, rep := 0#4, slot := 0#5, ph := 0#1
            st := .fault, level := .low, tmr := 0#14, stb := false, errkind := .symbol, erridx := 0#5 }
        else
          { s with
            cmd := c, cmdx := x, st := .run, rep := 0#4, slot := 0#5, ph := 0#1
            level := .high, tmr := if c.getLsbD 23 then 1030#14 else 390#14, stb := true
            trace := s.trace ++ [⟨.high, if c.getLsbD 23 then 1030#14 else 390#14⟩] }))

/-- 43_host_operations.md R142: outside IDLE a start request has no effect of any kind; the tick is a plain TICK. -/
def Obligations.StartOutsideIdleIsIgnored : Prop :=
  (∀ (s : State) (c x : CmdWord) (e : Bool), s.st ≠ .idle → exec (.start c x e) s = exec .tick s) ∧
  (∀ (s : State) (p : Inputs) (rest : List Inputs), s.st ≠ .idle → p.rst_i = false →
    step (s.withInputs (p :: rest)) = step (s.withInputs ({ p with start_i := false } :: rest)) ∧
    step (s.withInputs (p :: rest)) = exec .tick (s.withInputs rest))

/-- 10_state.md R37: every register's value after RESET, from any state at all. The last two fields are the model's own
(assumption log entries 1 and 4): the coming samples stay the host's. -/
def Obligations.ResetGivesTheResetValues : Prop :=
  ∀ s : State, exec .reset s = .next
    { cmd := 0x000000#24, cmdx := 0x000000#24, st := .idle, rep := 0#4, slot := 0#5, ph := 0#1, tmr := 0#14, level := .low
      stb := false, errkind := .none, erridx := 0#5, trace := [], inputs := s.inputs, resetSeen := true }

/-- Derived (60_exceptions.md R158, R162; 10_state.md R42; 70_reset_and_hazards.md R187): a reset request wins over everything
at its tick, and nothing of the state before it is left: two blocks in any two states are in one state after it. -/
def Obligations.ResetWinsAndErasesEverything : Prop :=
  ∀ (s u : State) (p q : Inputs) (rest : List Inputs), p.rst_i = true → q.rst_i = true →
    step (s.withInputs (p :: rest)) = step (u.withInputs (q :: rest)) ∧
    step (s.withInputs (p :: rest)) = .next (State.reset.withInputs rest)

/-- Derived (70_reset_and_hazards.md R181): before the first reset the only step is RESET. The flag that says a reset has been
seen is the model's own (assumption log entry 4). -/
def Obligations.BeforeTheFirstResetOnlyResetSteps : Prop :=
  ∀ s : State, s.resetSeen = false →
    (s.ports.rst_i = false → step s = .refused .beforeFirstReset) ∧
    (s.ports.rst_i = true → step s = .next (State.reset.withInputs s.inputs.tail))

/-- Derived (30_encoding.md R82, 43_host_operations.md R140, assumption log entry 5): a state that holds a reserved code is given
no step but RESET. The refusal is R82's; that RESET still steps from such a state is the model's reading (entry 5, DEDUCED from
R140, whose rule reads no register). -/
def Obligations.ReservedCodesAreRefused : Prop :=
  ∀ s : State, s.resetSeen = true →
    (s.errkind = .reserved ∨ 25 < s.slot.toNat ∨ 10 < s.rep.toNat ∨ (s.slot = 25#5 ∧ s.ph = 1#1) ∨
      (s.rep = 10#4 ∧ s.slot ≠ 25#5)) →
    (s.ports.rst_i = false → step s = .refused .reservedCode) ∧
    (s.ports.rst_i = true → step s = .next (State.reset.withInputs s.inputs.tail))

/-! ### Whole-machine rules: what any step can do -/

/-- 10_state.md R23: the codes of ST, its reset value, the only transitions of ST, and what each needs; DONE and FAULT are
terminal. -/
def Obligations.OnlyTheListedTransitionsOfSt : Prop :=
  (RunState.idle.code = 0b00#2 ∧ RunState.run.code = 0b01#2 ∧ RunState.done.code = 0b10#2 ∧ RunState.fault.code = 0b11#2) ∧
  State.reset.st = .idle ∧
  ∀ s t : State, step s = .next t →
    (s.ports.rst_i = true → t.st = .idle) ∧
    (s.ports.rst_i = false →
      (s.st = .idle → s.ports.start_i = false → t.st = .idle) ∧
      (s.st = .idle → s.ports.start_i = true → t.st = .run ∨ t.st = .fault) ∧
      (s.st = .run → t.st = .run ∨ (t.st = .done ∧ s.tmr.toNat ≤ 1 ∧ nextPosition s.pos = none) ∨
        (t.st = .fault ∧ s.tmr.toNat ≤ 1 ∧ ∃ p, nextPosition s.pos = some p ∧ decodeUop (uop s.cmd s.cmdx p.rep p.slot) = .symx)) ∧
      (s.st = .done → t.st = .done) ∧
      (s.st = .fault → t.st = .fault))

/-- Derived (10_state.md R21, R22; 20_memory.md R57): no step but RESET and an accepted START writes the command store, and an
accepted START writes exactly the ports' values. -/
def Obligations.CommandStoreIsWrittenByTheLatchOnly : Prop :=
  ∀ s t : State, step s = .next t → s.ports.rst_i = false →
    (s.st ≠ .idle ∨ s.ports.start_i = false → t.cmd = s.cmd ∧ t.cmdx = s.cmdx) ∧
    (s.st = .idle → s.ports.start_i = true → t.cmd = s.ports.cmd_i ∧ t.cmdx = s.ports.cmdx_i)

/-- Derived (43_host_operations.md R145, 20_memory.md R57): the command ports are read at an accepted START and at no other tick. -/
def Obligations.CommandPortsAreReadAtStartOnly : Prop :=
  ∀ (s : State) (p q : Inputs) (rest : List Inputs), p.rst_i = q.rst_i → p.start_i = q.start_i →
    (s.st ≠ .idle ∨ p.start_i = false ∨ p.rst_i = true) →
    step (s.withInputs (p :: rest)) = step (s.withInputs (q :: rest))

/-- Derived (10_state.md R31, R32): the error registers are written by fault entry and by RESET only. -/
def Obligations.ErrorRegistersAreWrittenByFaultEntryOnly : Prop :=
  ∀ s t : State, step s = .next t → s.ports.rst_i = false →
    (t.st ≠ .fault ∨ s.st = .fault → t.errkind = s.errkind ∧ t.erridx = s.erridx) ∧
    (t.st = .fault → s.st ≠ .fault → t.errkind = .length ∨ t.errkind = .symbol)

/-- 60_exceptions.md R160: fault entry, in every step that enters FAULT: the six registers written, TRACE kept, and the position
and the command store at what this tick gave them (in a run the next position; in a START the latch, and the position kept, or
(0, 0, 0) where the run had begun); the outputs show it. -/
def Obligations.FaultEntryWritesSixRegisters : Prop :=
  ∀ s t : State, step s = .next t → s.st ≠ .fault → t.st = .fault →
    t.level = .low ∧ t.tmr = 0#14 ∧ t.stb = false ∧ t.trace = s.trace ∧ t.outputs.err_o = 1#1 ∧ t.outputs.busy_o = 0#1 ∧
    (s.st = .run → t.errkind = .symbol ∧ t.erridx = t.slot ∧ nextPosition s.pos = some t.pos ∧ t.cmd = s.cmd ∧
      t.cmdx = s.cmdx) ∧
    (s.st = .idle → t.cmd = s.ports.cmd_i ∧ t.cmdx = s.ports.cmdx_i ∧
      (s.ports.lenerr_i = true → t.errkind = .length ∧ t.erridx = 0#5 ∧ t.pos = s.pos) ∧
      (s.ports.lenerr_i = false → t.errkind = .symbol ∧
        t.pos = (if Config.faultPrefix = .prescan then s.pos else ⟨0#4, 0#5, 0#1⟩) ∧
        ∃ k, firstSx s.ports.cmdx_i = some k ∧ t.erridx = BitVec.ofNat 5 k.val))

/-- Derived (10_state.md R40): nothing reads TRACE: with another TRACE every step writes the other registers alike. -/
def Obligations.NothingReadsTrace : Prop :=
  ∀ (s t : State) (tr : List Event), step s = .next t →
    ∃ tr', step { s with trace := tr } = .next { t with trace := tr' } ∧
      ((t.trace = [] ∧ tr' = []) ∨ ∃ es, t.trace = s.trace ++ es ∧ tr' = tr ++ es ∧ es.length ≤ 1)

/-- Derived (10_state.md R33): at most one of BUSY, DONE, ERR is 1, all are 0 exactly in IDLE, and each is its value of ST. -/
def Obligations.FlagsFollowSt : Prop :=
  ∀ s : State,
    (s.busy = true ↔ s.st = .run) ∧ (s.isDone = true ↔ s.st = .done) ∧ (s.err = true ↔ s.st = .fault) ∧
    ¬ (s.busy = true ∧ s.isDone = true) ∧ ¬ (s.busy = true ∧ s.err = true) ∧ ¬ (s.isDone = true ∧ s.err = true) ∧
    ((s.busy = false ∧ s.isDone = false ∧ s.err = false) ↔ s.st = .idle)

/-- 10_state.md R34: the output ports are registers or functions of registers, and no input shows in them. -/
def Obligations.OutputsShowTheRegisters : Prop :=
  ∀ s : State,
    s.outputs.level_o = s.level.bit ∧ s.outputs.tmr_o = s.tmr ∧ s.outputs.stb_o = BitVec.ofBool s.stb ∧
    s.outputs.st_o = s.st.code ∧ (s.outputs.busy_o = 1#1 ↔ s.st = .run) ∧ (s.outputs.done_o = 1#1 ↔ s.st = .done) ∧
    (s.outputs.err_o = 1#1 ↔ s.st = .fault) ∧ s.outputs.errkind_o = s.errkind.code ∧ s.outputs.erridx_o = s.erridx ∧
    ∀ ins : List Inputs, (s.withInputs ins).outputs = s.outputs

/-! ### Invariants -/

/-- Derived (10_state.md R37, R38): the invariant holds after reset. -/
def Obligations.ResetMeetsTheInvariant : Prop := Inv State.reset

/-- Derived (10_state.md R38, strengthened so that a step keeps it): from every state that meets the invariant, whatever the
host does, a step answers a state that meets it. -/
def Obligations.EveryStepKeepsTheInvariant : Prop :=
  ∀ s t : State, Inv s → step s = .next t → Inv t

/-- 10_state.md R38: the table of what holds in every state reachable from reset. -/
def Obligations.ReachableStatesMeetTheTable : Prop := ∀ s : State, Reachable s → stateTable s

/-- 70_reset_and_hazards.md R182: ST = IDLE alone implies the clean entry. -/
def Obligations.IdleAloneIsACleanEntry : Prop :=
  ∀ s : State, Reachable s → s.st = .idle →
    s.pos = ⟨0#4, 0#5, 0#1⟩ ∧ s.tmr = 0#14 ∧ s.level = .low ∧ s.stb = false ∧ s.errkind = .none ∧ s.erridx = 0#5 ∧
    s.trace = []

/-- Derived (42_pulse_timer.md R131, a total function; 30_encoding.md R82): no reachable state stops, whatever the host does. -/
def Obligations.NoReachableStateStops : Prop := ∀ s : State, Reachable s → ∃ t, step s = .next t

/-- Derived (10_state.md R30, R40): at the ports TRACE can be rebuilt: a step appends exactly the (LEVEL, TMR) of an interval
with STB = 1, and nothing in an interval with STB = 0. -/
def Obligations.StrobeMarksEveryEvent : Prop :=
  ∀ s t : State, Reachable s → step s = .next t → s.ports.rst_i = false →
    t.trace = if t.stb then s.trace ++ [⟨t.level, t.tmr⟩] else s.trace

/-- 60_exceptions.md R164: LEVEL is LOW whenever ST is not RUN, HIGH only inside a HIGH event, and never HIGH for more than 1030
consecutive intervals, whatever the host does. -/
def Obligations.PinIsSafeOnEveryPath : Prop :=
  ∀ s : State, Reachable s →
    (s.st ≠ .run → s.level = .low) ∧
    (s.level = .high → ∃ ev, s.trace.getLast? = some ev ∧ ev.level = .high ∧ ev.dur.toNat ≤ 1030 ∧
      s.tmr.toNat ≤ ev.dur.toNat) ∧
    ¬ (∀ n ≤ 1030, ∃ t, runTicks n s = .next t ∧ t.level = .high)

/-- Derived (60_exceptions.md R155): the fault is precise: raised only where the event before it has expired whole and LOW, or at
START; a reset in its tick leaves no fault. -/
def Obligations.FaultIsPrecise : Prop :=
  ∀ s t : State, Reachable s → step s = .next t → s.st ≠ .fault → t.st = .fault →
    s.level = .low ∧ (s.st = .run → s.tmr = 1#14 ∧ s.ph = 1#1) ∧ s.ports.rst_i = false ∧ t.trace = s.trace ∧
    t.trace.length = 2 * t.slot.toNat

/-- Derived (40_symbol_mapper.md section 3, law (a)): every symbol slot and trailer slot begins with a rising edge. -/
def Obligations.SymbolAndTrailerSlotsBeginWithARisingEdge : Prop :=
  ∀ s t : State, Reachable s → step s = .next t → t.stb = true → t.ph = 0#1 → t.slot.toNat ≤ 24 →
    s.level = .low ∧ t.level = .high

/-! ### Event lists -/

/-- Derived (41_framing_sequencer.md R115, R116, R122; 42_pulse_timer.md R137): counts and lengths that do not depend on the
command. -/
def Obligations.FrameAndTransmissionTotals : Prop :=
  ∀ c : CmdWord,
    (frame c).length = 51 ∧ (transmission c).length = 511 ∧
    totalTicks (pairsBefore c 0#24 24) = 34080 ∧ totalTicks (frame c) = 45420 ∧ totalTicks (transmission c) = 464120 ∧
    ((transmission c).filter fun e => e.level == .high).length = 250 ∧
    ((transmission c).filter fun e => e.level == .low).length = 261

/-- Derived (40_symbol_mapper.md R104 law (d), 42_pulse_timer.md R137): the HIGH time counts the `1` symbols. -/
def Obligations.HighTimeCountsTheOnes : Prop :=
  ∀ c : CmdWord, highTicks (frame c) = 9750 + 640 * ones c ∧ highTicks (transmission c) = 97500 + 6400 * ones c

/-- Derived (41_framing_sequencer.md R116, R121): the transmission is the events at the 511 positions in order, and each starts
at the sum of the durations before it. -/
def Obligations.TransmissionIsTheChainOfEvents : Prop :=
  ∀ c : CmdWord, eventsUpTo c 0#24 511 = transmission c ∧
    ∀ j ≤ 510, startTick c j = totalTicks ((transmission c).take j)

/-- Derived (60_exceptions.md R153, its last sentence): what holds under both readings: the same verdict, with the first
offending symbol, and the events of the one are the first events of the other. -/
def Obligations.BothReadingsAgreeOnTheVerdict : Prop :=
  ∀ (c x : CmdWord) (e : Bool),
    (encodeCommand .prescan c x e).2 = (encodeCommand .lazy c x e).2 ∧
    (encodeCommand .prescan c x e).1 <+: (encodeCommand .lazy c x e).1 ∧
    ∀ fp : FaultPrefix, ∀ k : SymIdx, e = false → firstSx x = some k →
      (encodeCommand fp c x e).2 = .err .symbol (BitVec.ofNat 5 k.val) ∧
      (encodeCommand fp c x e).1 <+: pairsBefore c x k.val ∧ (pairsBefore c x k.val).length = 2 * k.val

/-- Derived (20_memory.md R52, 10_state.md R22): the value bit of a marked symbol is ignored. -/
def Obligations.ValueBitsUnderMarksAreIgnored : Prop :=
  ∀ (fp : FaultPrefix) (c c' x : CmdWord) (e : Bool),
    (∀ i : SymIdx, x.getLsbD (23 - i.val) = false → c.getLsbD (23 - i.val) = c'.getLsbD (23 - i.val)) →
    encodeCommand fp c x e = encodeCommand fp c' x e

/-! ### Runs -/

/-- 41_framing_sequencer.md R116: the block is correct. For every command presented at an accepted START, with no reset in the
run, whatever else the host does, the run ends with exactly the TRACE and the status of the reference function, every event
having held LEVEL for exactly its duration; a transmission has 511 events and lasts 464120 ticks. The profile is that of
42_pulse_timer.md R135; that its interval 0 is that of the START tick rests on the latency 0 of assumption log entry 18. -/
def Obligations.RunEqualsTheReferenceFunction : Prop :=
  ∀ (s : State) (c x : CmdWord) (e : Bool) (rest : List Inputs), Reachable s → s.st = .idle →
    s.inputs = startPorts c x e :: rest → (∀ p ∈ rest, p.rst_i = false) →
    (∃ t, runTicks 464121 s = .next t ∧ t.trace = (encodeCommand Config.faultPrefix c x e).1 ∧
      t.verdict = some (encodeCommand Config.faultPrefix c x e).2) ∧
    (∀ n : Nat, ∃ t, runTicks (n + 1) s = .next t ∧
      t.level = profileAt (encodeCommand Config.faultPrefix c x e).1 n) ∧
    (transmission c).length = 511 ∧ totalTicks (transmission c) = 464120

/-- 41_framing_sequencer.md R121: event j of a run is loaded at its position, `start(j)` ticks after START, and the run completes
464120 ticks after it. Counting the ticks from START rests on the latency 0 of assumption log entry 18. -/
def Obligations.EventsStartOnTheirTicks : Prop :=
  ∀ (s : State) (c : CmdWord) (rest : List Inputs), Reachable s → s.st = .idle →
    s.inputs = startPorts c 0#24 false :: rest → (∀ p ∈ rest, p.rst_i = false) →
    (∀ j ≤ 510, ∃ t, runTicks (startTick c j + 1) s = .next t ∧ t.st = .run ∧ t.pos = positionAt j ∧ t.stb = true ∧
      eventAt c 0#24 (positionAt j) = some ⟨t.level, t.tmr⟩ ∧ t.trace = (transmission c).take (j + 1)) ∧
    (∃ t, runTicks 464120 s = .next t ∧ t.st = .run) ∧
    (∃ t, runTicks 464121 s = .next t ∧ t.st = .done)

/-- Derived (60_exceptions.md R152, R153; 41_framing_sequencer.md R119): a run of a command with a bad symbol, first at index k,
faults at tick 1420 * k under LAZY and at tick 0 under PRESCAN, not before, with ERRKIND = SYMBOL and ERRIDX = k.
Counting the ticks from START rests on the latency 0 of assumption log entry 18. -/
def Obligations.BadCommandFaultsOnItsTick : Prop :=
  ∀ (s : State) (c x : CmdWord) (k : SymIdx) (rest : List Inputs), Reachable s → s.st = .idle →
    s.inputs = startPorts c x false :: rest → (∀ p ∈ rest, p.rst_i = false) → firstSx x = some k →
    ∀ n : Nat, ∃ t, runTicks (n + 1) s = .next t ∧
      if n < (if Config.faultPrefix = .prescan then 0 else 1420 * k.val) then t.st = .run
      else t.st = .fault ∧ t.errkind = .symbol ∧ t.erridx = BitVec.ofNat 5 k.val ∧ t.level = .low

/-- Derived (60_exceptions.md R151): a wrong length faults in the START tick with no event, whatever the command ports, and
stays so until a reset. -/
def Obligations.WrongLengthFaultsAtOnce : Prop :=
  ∀ (s : State) (c x : CmdWord) (rest : List Inputs), Reachable s → s.st = .idle →
    s.inputs = startPorts c x true :: rest → (∀ p ∈ rest, p.rst_i = false) →
    ∀ n : Nat, ∃ t, runTicks (n + 1) s = .next t ∧ t.st = .fault ∧ t.errkind = .length ∧ t.erridx = 0#5 ∧
      t.level = .low ∧ t.trace = []

/-- Derived (41_framing_sequencer.md R119): every run ends, in DONE exactly 464120 ticks after an accepted START if the command is
well-formed, else in FAULT at most 32660 ticks after it. Counting the ticks from START rests on the latency 0 of assumption log
entry 18. -/
def Obligations.EveryRunEnds : Prop :=
  ∀ (s : State) (c x : CmdWord) (e : Bool) (rest : List Inputs), Reachable s → s.st = .idle →
    s.inputs = startPorts c x e :: rest → (∀ p ∈ rest, p.rst_i = false) →
    (x = 0#24 ∧ e = false → ∀ n : Nat, ∃ t, runTicks (n + 1) s = .next t ∧ t.st = if n < 464120 then .run else .done) ∧
    (x ≠ 0#24 ∨ e = true → ∀ n : Nat, 32660 ≤ n → ∃ t, runTicks (n + 1) s = .next t ∧ t.st = .fault)

/-- Derived (43_host_operations.md R140 corner cases (a), (b); R146, Kill): a reset at any tick of a run makes LEVEL LOW from its
interval on, with every register at its reset value, for as long as the host then asks for no START. -/
def Obligations.ResetKillsARunAtOnce : Prop :=
  ∀ (s t : State) (n m : Nat) (p : Inputs) (rest : List Inputs), runTicks n s = .next t →
    t.inputs = p :: rest → p.rst_i = true → (∀ q ∈ rest, q.start_i = false) →
    runTicks (n + 1 + m) s = .next (State.reset.withInputs (rest.drop m)) ∧ State.reset.level = .low
end

