-- ==== Sys2Proof/Laws/Decode.lean ====
section
/-! SUPPORT. What the decoders and the operand functions give. -/

namespace Sys2Proof.Machine

open Sys2Proof

/-- The decode of a symbol UOP is the class of its cell (30_encoding.md R73, 20_memory.md R52). -/
theorem decodeUop_symbol (cell : BitVec 2) :
    decodeUop (0b00#2 ++ cell) =
      match classOf cell with
      | .s0 => .sym0
      | .s1 => .sym1
      | .sx => .symx := by
  revert cell; decide

/-- Encoding a slot operation and decoding it gives it back. -/
@[simp] theorem decodeUop_encodeUop (op : SlotOp) : decodeUop (encodeUop op) = op := by
  cases op <;> decide

/-- The class of a symbol by its two register bits (20_memory.md R51, R52). -/
theorem symClass_eq (c x : CmdWord) (i : SymIdx) :
    symClass c x i =
      if x.getLsbD (23 - i.val) then .sx else if c.getLsbD (23 - i.val) then .s1 else .s0 := by
  unfold symClass memRead
  cases x.getLsbD (23 - i.val) <;> cases c.getLsbD (23 - i.val) <;> rfl

/-- A symbol is of class SX exactly where its mark is set. -/
theorem symClass_sx (c x : CmdWord) (i : SymIdx) :
    symClass c x i = .sx ↔ x.getLsbD (23 - i.val) = true := by
  rw [symClass_eq]
  cases x.getLsbD (23 - i.val) <;> cases c.getLsbD (23 - i.val) <;> simp

/-- No mark is found exactly where every symbol's mark is 0. -/
theorem firstSx_none (x : CmdWord) :
    firstSx x = none ↔ ∀ i : SymIdx, x.getLsbD (23 - i.val) = false := by
  simp [firstSx, List.find?_eq_none]

/-- A mark that is found is set. -/
theorem firstSx_mark {x : CmdWord} {k : SymIdx} (h : firstSx x = some k) :
    x.getLsbD (23 - k.val) = true := by
  simpa using List.find?_some h

/-- No mark before the one that is found is set. -/
theorem firstSx_least {x : CmdWord} {k : SymIdx} (h : firstSx x = some k) (j : SymIdx) (hj : j.val < k.val) :
    x.getLsbD (23 - j.val) = false := by
  unfold firstSx at h
  rw [List.find?_eq_some_iff_getElem] at h
  obtain ⟨_, i, hi, e, hb⟩ := h
  have hik : i = k.val := by simpa [Fin.ext_iff] using e
  simpa using hb j.val (by omega)

/-- The first set mark is the one that is found. -/
theorem firstSx_of {x : CmdWord} {k : SymIdx} (hk : x.getLsbD (23 - k.val) = true)
    (hl : ∀ j : SymIdx, j.val < k.val → x.getLsbD (23 - j.val) = false) : firstSx x = some k := by
  unfold firstSx
  rw [List.find?_eq_some_iff_getElem]
  refine ⟨hk, k.val, by simp, by simp, fun j hj => ?_⟩
  simpa using hl ⟨j, by omega⟩ hj

/-- No mark is found exactly in the word 0. -/
theorem firstSx_zero (x : CmdWord) : firstSx x = none ↔ x = 0#24 := by
  rw [firstSx_none]
  constructor
  · intro h
    apply BitVec.eq_of_getLsbD_eq
    intro i hi
    have hm := h ⟨23 - i, by omega⟩
    simp only [show 23 - (23 - i) = i by omega] at hm
    simp [hm]
  · rintro rfl i
    simp

/-- The UOP of the end gap (30_encoding.md R74). -/
@[simp] theorem uop_endgap (c x : CmdWord) (slot : BitVec 5) :
    uop c x Config.repeatCount slot = 0b1100#4 := by
  simp [uop]

/-- The UOP of a symbol slot. -/
theorem uop_symbol (c x : CmdWord) {rep : BitVec 4} {slot : BitVec 5} (hr : rep ≠ Config.repeatCount)
    (hs : slot.toNat < 24) : uop c x rep slot = 0b00#2 ++ memRead c x ⟨slot.toNat, hs⟩ := by
  simp [uop, hr, hs]

/-- The UOP of the trailer slot. -/
theorem uop_trail (c x : CmdWord) {rep : BitVec 4} (hr : rep ≠ Config.repeatCount) :
    uop c x rep 24#5 = 0b0100#4 := by
  simp [uop, hr]

/-- The UOP of the gap slot. -/
theorem uop_gap (c x : CmdWord) {rep : BitVec 4} (hr : rep ≠ Config.repeatCount) :
    uop c x rep 25#5 = 0b1000#4 := by
  simp [uop, hr]

/-- A UOP decodes to SYMX only at a symbol slot whose cell is SX. -/
theorem uop_symx {c x : CmdWord} {rep : BitVec 4} {slot : BitVec 5} (h : decodeUop (uop c x rep slot) = .symx) :
    rep ≠ Config.repeatCount ∧ ∃ hs : slot.toNat < 24, symClass c x ⟨slot.toNat, hs⟩ = .sx := by
  have hr : rep ≠ Config.repeatCount := by
    rintro rfl
    rw [uop_endgap] at h
    exact absurd h (by decide)
  refine ⟨hr, ?_⟩
  unfold uop at h
  rw [if_neg hr] at h
  split at h
  next hs =>
    refine ⟨hs, ?_⟩
    rw [decodeUop_symbol] at h
    unfold symClass
    split at h <;> simp_all
  next => split at h <;> simp [decodeUop] at h

/-! The named constants, as numbers and as ROM words (00_scope.md R6). -/
@[simp] theorem constants_short : Config.constants.short = 390 := rfl
@[simp] theorem constants_long : Config.constants.long = 1030 := rfl
@[simp] theorem constants_radioSilence : Config.constants.radioSilence = 9920 := rfl
@[simp] theorem constants_repeatCount : Config.constants.repeatCount = 10 := rfl
@[simp] theorem rom_short : rom .short = 390#14 := rfl
@[simp] theorem rom_long : rom .long = 1030#14 := rfl
@[simp] theorem rom_radioSilence : rom .radioSilence = 9920#14 := rfl

end Sys2Proof.Machine
end

