-- ==== Sys2Proof/Laws/State.lean ====
section
/-! SUPPORT. One lemma per field per register update, true by rfl, so that no proof unfolds a record update. -/

namespace Sys2Proof.Machine

open Sys2Proof

variable (s : State)

/-! `State.consume` -/

@[simp] theorem State.consume_cmd : s.consume.cmd = s.cmd := rfl
@[simp] theorem State.consume_cmdx : s.consume.cmdx = s.cmdx := rfl
@[simp] theorem State.consume_st : s.consume.st = s.st := rfl
@[simp] theorem State.consume_rep : s.consume.rep = s.rep := rfl
@[simp] theorem State.consume_slot : s.consume.slot = s.slot := rfl
@[simp] theorem State.consume_ph : s.consume.ph = s.ph := rfl
@[simp] theorem State.consume_tmr : s.consume.tmr = s.tmr := rfl
@[simp] theorem State.consume_level : s.consume.level = s.level := rfl
@[simp] theorem State.consume_stb : s.consume.stb = s.stb := rfl
@[simp] theorem State.consume_errkind : s.consume.errkind = s.errkind := rfl
@[simp] theorem State.consume_erridx : s.consume.erridx = s.erridx := rfl
@[simp] theorem State.consume_trace : s.consume.trace = s.trace := rfl
@[simp] theorem State.consume_inputs : s.consume.inputs = s.inputs.tail := rfl
@[simp] theorem State.consume_resetSeen : s.consume.resetSeen = s.resetSeen := rfl
@[simp] theorem State.consume_pos : s.consume.pos = s.pos := rfl

/-! `State.setPos` -/

@[simp] theorem State.setPos_cmd (p : Position) : (s.setPos p).cmd = s.cmd := rfl
@[simp] theorem State.setPos_cmdx (p : Position) : (s.setPos p).cmdx = s.cmdx := rfl
@[simp] theorem State.setPos_st (p : Position) : (s.setPos p).st = s.st := rfl
@[simp] theorem State.setPos_rep (p : Position) : (s.setPos p).rep = p.rep := rfl
@[simp] theorem State.setPos_slot (p : Position) : (s.setPos p).slot = p.slot := rfl
@[simp] theorem State.setPos_ph (p : Position) : (s.setPos p).ph = p.ph := rfl
@[simp] theorem State.setPos_tmr (p : Position) : (s.setPos p).tmr = s.tmr := rfl
@[simp] theorem State.setPos_level (p : Position) : (s.setPos p).level = s.level := rfl
@[simp] theorem State.setPos_stb (p : Position) : (s.setPos p).stb = s.stb := rfl
@[simp] theorem State.setPos_errkind (p : Position) : (s.setPos p).errkind = s.errkind := rfl
@[simp] theorem State.setPos_erridx (p : Position) : (s.setPos p).erridx = s.erridx := rfl
@[simp] theorem State.setPos_trace (p : Position) : (s.setPos p).trace = s.trace := rfl
@[simp] theorem State.setPos_inputs (p : Position) : (s.setPos p).inputs = s.inputs := rfl
@[simp] theorem State.setPos_resetSeen (p : Position) : (s.setPos p).resetSeen = s.resetSeen := rfl
@[simp] theorem State.setPos_pos (p : Position) : (s.setPos p).pos = p := rfl

/-! `State.setSt` -/

@[simp] theorem State.setSt_cmd (v : RunState) : (s.setSt v).cmd = s.cmd := rfl
@[simp] theorem State.setSt_cmdx (v : RunState) : (s.setSt v).cmdx = s.cmdx := rfl
@[simp] theorem State.setSt_st (v : RunState) : (s.setSt v).st = v := rfl
@[simp] theorem State.setSt_rep (v : RunState) : (s.setSt v).rep = s.rep := rfl
@[simp] theorem State.setSt_slot (v : RunState) : (s.setSt v).slot = s.slot := rfl
@[simp] theorem State.setSt_ph (v : RunState) : (s.setSt v).ph = s.ph := rfl
@[simp] theorem State.setSt_tmr (v : RunState) : (s.setSt v).tmr = s.tmr := rfl
@[simp] theorem State.setSt_level (v : RunState) : (s.setSt v).level = s.level := rfl
@[simp] theorem State.setSt_stb (v : RunState) : (s.setSt v).stb = s.stb := rfl
@[simp] theorem State.setSt_errkind (v : RunState) : (s.setSt v).errkind = s.errkind := rfl
@[simp] theorem State.setSt_erridx (v : RunState) : (s.setSt v).erridx = s.erridx := rfl
@[simp] theorem State.setSt_trace (v : RunState) : (s.setSt v).trace = s.trace := rfl
@[simp] theorem State.setSt_inputs (v : RunState) : (s.setSt v).inputs = s.inputs := rfl
@[simp] theorem State.setSt_resetSeen (v : RunState) : (s.setSt v).resetSeen = s.resetSeen := rfl
@[simp] theorem State.setSt_pos (v : RunState) : (s.setSt v).pos = s.pos := rfl

/-! `State.latch` -/

@[simp] theorem State.latch_cmd (c x : CmdWord) : (s.latch c x).cmd = c := rfl
@[simp] theorem State.latch_cmdx (c x : CmdWord) : (s.latch c x).cmdx = x := rfl
@[simp] theorem State.latch_st (c x : CmdWord) : (s.latch c x).st = s.st := rfl
@[simp] theorem State.latch_rep (c x : CmdWord) : (s.latch c x).rep = s.rep := rfl
@[simp] theorem State.latch_slot (c x : CmdWord) : (s.latch c x).slot = s.slot := rfl
@[simp] theorem State.latch_ph (c x : CmdWord) : (s.latch c x).ph = s.ph := rfl
@[simp] theorem State.latch_tmr (c x : CmdWord) : (s.latch c x).tmr = s.tmr := rfl
@[simp] theorem State.latch_level (c x : CmdWord) : (s.latch c x).level = s.level := rfl
@[simp] theorem State.latch_stb (c x : CmdWord) : (s.latch c x).stb = s.stb := rfl
@[simp] theorem State.latch_errkind (c x : CmdWord) : (s.latch c x).errkind = s.errkind := rfl
@[simp] theorem State.latch_erridx (c x : CmdWord) : (s.latch c x).erridx = s.erridx := rfl
@[simp] theorem State.latch_trace (c x : CmdWord) : (s.latch c x).trace = s.trace := rfl
@[simp] theorem State.latch_inputs (c x : CmdWord) : (s.latch c x).inputs = s.inputs := rfl
@[simp] theorem State.latch_resetSeen (c x : CmdWord) : (s.latch c x).resetSeen = s.resetSeen := rfl
@[simp] theorem State.latch_pos (c x : CmdWord) : (s.latch c x).pos = s.pos := rfl

/-! `State.emit` -/

@[simp] theorem State.emit_cmd (l : Level) (d : Dur) : (s.emit l d).cmd = s.cmd := rfl
@[simp] theorem State.emit_cmdx (l : Level) (d : Dur) : (s.emit l d).cmdx = s.cmdx := rfl
@[simp] theorem State.emit_st (l : Level) (d : Dur) : (s.emit l d).st = s.st := rfl
@[simp] theorem State.emit_rep (l : Level) (d : Dur) : (s.emit l d).rep = s.rep := rfl
@[simp] theorem State.emit_slot (l : Level) (d : Dur) : (s.emit l d).slot = s.slot := rfl
@[simp] theorem State.emit_ph (l : Level) (d : Dur) : (s.emit l d).ph = s.ph := rfl
@[simp] theorem State.emit_tmr (l : Level) (d : Dur) : (s.emit l d).tmr = d := rfl
@[simp] theorem State.emit_level (l : Level) (d : Dur) : (s.emit l d).level = l := rfl
@[simp] theorem State.emit_stb (l : Level) (d : Dur) : (s.emit l d).stb = true := rfl
@[simp] theorem State.emit_errkind (l : Level) (d : Dur) : (s.emit l d).errkind = s.errkind := rfl
@[simp] theorem State.emit_erridx (l : Level) (d : Dur) : (s.emit l d).erridx = s.erridx := rfl
@[simp] theorem State.emit_trace (l : Level) (d : Dur) : (s.emit l d).trace = s.trace ++ [⟨l, d⟩] := rfl
@[simp] theorem State.emit_inputs (l : Level) (d : Dur) : (s.emit l d).inputs = s.inputs := rfl
@[simp] theorem State.emit_resetSeen (l : Level) (d : Dur) : (s.emit l d).resetSeen = s.resetSeen := rfl
@[simp] theorem State.emit_pos (l : Level) (d : Dur) : (s.emit l d).pos = s.pos := rfl

/-! `State.raise` -/

@[simp] theorem State.raise_cmd (k : ErrKind) (i : BitVec 5) : (s.raise k i).cmd = s.cmd := rfl
@[simp] theorem State.raise_cmdx (k : ErrKind) (i : BitVec 5) : (s.raise k i).cmdx = s.cmdx := rfl
@[simp] theorem State.raise_st (k : ErrKind) (i : BitVec 5) : (s.raise k i).st = .fault := rfl
@[simp] theorem State.raise_rep (k : ErrKind) (i : BitVec 5) : (s.raise k i).rep = s.rep := rfl
@[simp] theorem State.raise_slot (k : ErrKind) (i : BitVec 5) : (s.raise k i).slot = s.slot := rfl
@[simp] theorem State.raise_ph (k : ErrKind) (i : BitVec 5) : (s.raise k i).ph = s.ph := rfl
@[simp] theorem State.raise_tmr (k : ErrKind) (i : BitVec 5) : (s.raise k i).tmr = 0#14 := rfl
@[simp] theorem State.raise_level (k : ErrKind) (i : BitVec 5) : (s.raise k i).level = .low := rfl
@[simp] theorem State.raise_stb (k : ErrKind) (i : BitVec 5) : (s.raise k i).stb = false := rfl
@[simp] theorem State.raise_errkind (k : ErrKind) (i : BitVec 5) : (s.raise k i).errkind = k := rfl
@[simp] theorem State.raise_erridx (k : ErrKind) (i : BitVec 5) : (s.raise k i).erridx = i := rfl
@[simp] theorem State.raise_trace (k : ErrKind) (i : BitVec 5) : (s.raise k i).trace = s.trace := rfl
@[simp] theorem State.raise_inputs (k : ErrKind) (i : BitVec 5) : (s.raise k i).inputs = s.inputs := rfl
@[simp] theorem State.raise_resetSeen (k : ErrKind) (i : BitVec 5) : (s.raise k i).resetSeen = s.resetSeen := rfl
@[simp] theorem State.raise_pos (k : ErrKind) (i : BitVec 5) : (s.raise k i).pos = s.pos := rfl

/-! `State.halt` -/

@[simp] theorem State.halt_cmd : s.halt.cmd = s.cmd := rfl
@[simp] theorem State.halt_cmdx : s.halt.cmdx = s.cmdx := rfl
@[simp] theorem State.halt_st : s.halt.st = .done := rfl
@[simp] theorem State.halt_rep : s.halt.rep = s.rep := rfl
@[simp] theorem State.halt_slot : s.halt.slot = s.slot := rfl
@[simp] theorem State.halt_ph : s.halt.ph = s.ph := rfl
@[simp] theorem State.halt_tmr : s.halt.tmr = 0#14 := rfl
@[simp] theorem State.halt_level : s.halt.level = .low := rfl
@[simp] theorem State.halt_stb : s.halt.stb = false := rfl
@[simp] theorem State.halt_errkind : s.halt.errkind = s.errkind := rfl
@[simp] theorem State.halt_erridx : s.halt.erridx = s.erridx := rfl
@[simp] theorem State.halt_trace : s.halt.trace = s.trace := rfl
@[simp] theorem State.halt_inputs : s.halt.inputs = s.inputs := rfl
@[simp] theorem State.halt_resetSeen : s.halt.resetSeen = s.resetSeen := rfl
@[simp] theorem State.halt_pos : s.halt.pos = s.pos := rfl

/-! `State.countdown` -/

@[simp] theorem State.countdown_cmd : s.countdown.cmd = s.cmd := rfl
@[simp] theorem State.countdown_cmdx : s.countdown.cmdx = s.cmdx := rfl
@[simp] theorem State.countdown_st : s.countdown.st = s.st := rfl
@[simp] theorem State.countdown_rep : s.countdown.rep = s.rep := rfl
@[simp] theorem State.countdown_slot : s.countdown.slot = s.slot := rfl
@[simp] theorem State.countdown_ph : s.countdown.ph = s.ph := rfl
@[simp] theorem State.countdown_tmr : s.countdown.tmr = s.tmr - 1#14 := rfl
@[simp] theorem State.countdown_level : s.countdown.level = s.level := rfl
@[simp] theorem State.countdown_stb : s.countdown.stb = false := rfl
@[simp] theorem State.countdown_errkind : s.countdown.errkind = s.errkind := rfl
@[simp] theorem State.countdown_erridx : s.countdown.erridx = s.erridx := rfl
@[simp] theorem State.countdown_trace : s.countdown.trace = s.trace := rfl
@[simp] theorem State.countdown_inputs : s.countdown.inputs = s.inputs := rfl
@[simp] theorem State.countdown_resetSeen : s.countdown.resetSeen = s.resetSeen := rfl
@[simp] theorem State.countdown_pos : s.countdown.pos = s.pos := rfl

/-! `State.withInputs` -/

@[simp] theorem State.withInputs_cmd (ins : List Inputs) : (s.withInputs ins).cmd = s.cmd := rfl
@[simp] theorem State.withInputs_cmdx (ins : List Inputs) : (s.withInputs ins).cmdx = s.cmdx := rfl
@[simp] theorem State.withInputs_st (ins : List Inputs) : (s.withInputs ins).st = s.st := rfl
@[simp] theorem State.withInputs_rep (ins : List Inputs) : (s.withInputs ins).rep = s.rep := rfl
@[simp] theorem State.withInputs_slot (ins : List Inputs) : (s.withInputs ins).slot = s.slot := rfl
@[simp] theorem State.withInputs_ph (ins : List Inputs) : (s.withInputs ins).ph = s.ph := rfl
@[simp] theorem State.withInputs_tmr (ins : List Inputs) : (s.withInputs ins).tmr = s.tmr := rfl
@[simp] theorem State.withInputs_level (ins : List Inputs) : (s.withInputs ins).level = s.level := rfl
@[simp] theorem State.withInputs_stb (ins : List Inputs) : (s.withInputs ins).stb = s.stb := rfl
@[simp] theorem State.withInputs_errkind (ins : List Inputs) : (s.withInputs ins).errkind = s.errkind := rfl
@[simp] theorem State.withInputs_erridx (ins : List Inputs) : (s.withInputs ins).erridx = s.erridx := rfl
@[simp] theorem State.withInputs_trace (ins : List Inputs) : (s.withInputs ins).trace = s.trace := rfl
@[simp] theorem State.withInputs_inputs (ins : List Inputs) : (s.withInputs ins).inputs = ins := rfl
@[simp] theorem State.withInputs_resetSeen (ins : List Inputs) : (s.withInputs ins).resetSeen = s.resetSeen := rfl
@[simp] theorem State.withInputs_pos (ins : List Inputs) : (s.withInputs ins).pos = s.pos := rfl

/-! Fields of the position and of the reset state. -/

@[simp] theorem State.pos_rep : s.pos.rep = s.rep := rfl
@[simp] theorem State.pos_slot : s.pos.slot = s.slot := rfl
@[simp] theorem State.pos_ph : s.pos.ph = s.ph := rfl

/-- The ports of a state whose next sample is listed, and the state once it is used up. -/
@[simp] theorem State.withInputs_ports (p : Inputs) (rest : List Inputs) : (s.withInputs (p :: rest)).ports = p := rfl
@[simp] theorem State.withInputs_consume (p : Inputs) (rest : List Inputs) :
    (s.withInputs (p :: rest)).consume = s.withInputs rest := rfl

/-- Writing the position that is already there changes nothing. -/
@[simp] theorem State.setPos_self : s.setPos s.pos = s := rfl

/-- Of two writes of the position the later stands. -/
@[simp] theorem State.setPos_setPos (p q : Position) : (s.setPos p).setPos q = s.setPos q := rfl

end Sys2Proof.Machine
end

