-- ==== Sys2Proof/Laws/Ops.lean ====
section
/-! SUPPORT. What each shared operation can do, said once: proofs cite these and do not unfold the operation. -/

namespace Sys2Proof.Machine

open Sys2Proof

/-- Nothing stops a START or a TICK exactly in a ready state. -/
theorem stopReason_none (s : State) : s.stopReason = none ↔ s.ready := by
  unfold State.stopReason State.ready
  cases s.resetSeen <;> cases s.reservedHeld <;> simp

/-- A guarded operation answers a next state exactly where the state is ready and the operation does. -/
theorem guarded_next (s : State) (go : Result) (t : State) :
    s.guarded go = .next t ↔ s.ready ∧ go = .next t := by
  unfold State.guarded
  cases h : s.stopReason with
  | none => simp [(stopReason_none s).1 h]
  | some r =>
    have hn : ¬ s.ready := fun hr => by simp [(stopReason_none s).2 hr] at h
    simp [hn]

/-- In a ready state the guard is not there. -/
theorem guarded_ready {s : State} (h : s.ready) (go : Result) : s.guarded go = go := by
  unfold State.guarded
  rw [(stopReason_none s).2 h]

/-- Before the first reset a guarded operation is refused (70_reset_and_hazards.md R181). -/
theorem guarded_beforeReset {s : State} (h : s.resetSeen = false) (go : Result) :
    s.guarded go = .refused .beforeFirstReset := by
  unfold State.guarded State.stopReason
  rw [h]
  rfl

/-- With a reserved code held a guarded operation is refused (30_encoding.md R82). -/
theorem guarded_reserved {s : State} (hs : s.resetSeen = true) (h : s.reservedHeld = true) (go : Result) :
    s.guarded go = .refused .reservedCode := by
  unfold State.guarded State.stopReason
  rw [hs, h]
  rfl

/-- `issue` runs the operation that the UOP at the position decodes to. -/
theorem issue_exec (s : State) : issue s = exec s.slotOp.toInstr s := by
  unfold issue
  cases s.slotOp <;> rfl

/-- The operation at a symbol slot, by the class of its cell. -/
theorem slotOp_symbol (s : State) (hs : s.slot.toNat < 24) (hr : s.rep ≠ Config.repeatCount) :
    s.slotOp =
      match symClass s.cmd s.cmdx ⟨s.slot.toNat, hs⟩ with
      | .s0 => .sym0
      | .s1 => .sym1
      | .sx => .symx := by
  unfold State.slotOp
  rw [uop_symbol _ _ hr hs, decodeUop_symbol]
  rfl

/-- SYM0, SYM1 and TRAIL load one event of the ROM. -/
theorem execSym0_emits (s : State) : ∃ p : PulseCode, execSym0 s = .next (s.emit p.level (rom p.dsel)) := by
  by_cases h : s.ph = 0#1
  · exact ⟨.hShort, if_pos h⟩
  · exact ⟨.lLong, if_neg h⟩

theorem execSym1_emits (s : State) : ∃ p : PulseCode, execSym1 s = .next (s.emit p.level (rom p.dsel)) := by
  by_cases h : s.ph = 0#1
  · exact ⟨.hLong, if_pos h⟩
  · exact ⟨.lShort, if_neg h⟩

theorem execTrail_emits (s : State) : ∃ p : PulseCode, execTrail s = .next (s.emit p.level (rom p.dsel)) := by
  by_cases h : s.ph = 0#1
  · exact ⟨.hShort, if_pos h⟩
  · exact ⟨.lLong, if_neg h⟩

/-- `issue` always answers: a fault entry at a symbol of class SX, else the load of one event of the ROM. -/
theorem issue_answers (s : State) :
    (s.slotOp = .symx ∧ issue s = .next (s.raise .symbol s.slot)) ∨
      (s.slotOp ≠ .symx ∧ ∃ p : PulseCode, issue s = .next (s.emit p.level (rom p.dsel))) := by
  unfold issue
  cases s.slotOp with
  | symx => exact .inl ⟨rfl, rfl⟩
  | sym0 => exact .inr ⟨by simp, execSym0_emits s⟩
  | sym1 => exact .inr ⟨by simp, execSym1_emits s⟩
  | trail => exact .inr ⟨by simp, execTrail_emits s⟩
  | gap => exact .inr ⟨by simp, .lSil, rfl⟩
  | endgap => exact .inr ⟨by simp, .lSil, rfl⟩

/-- What `issue` answered was a fault entry, or the load of one event. -/
theorem issue_next {s t : State} (h : issue s = .next t) :
    (s.slotOp = .symx ∧ t = s.raise .symbol s.slot) ∨
      (s.slotOp ≠ .symx ∧ ∃ p : PulseCode, t = s.emit p.level (rom p.dsel)) := by
  rcases issue_answers s with ⟨a, e⟩ | ⟨a, p, e⟩ <;> cases e.symm.trans h
  · exact .inl ⟨a, rfl⟩
  · exact .inr ⟨a, p, rfl⟩

/-- Where the reference table has an event for the position, `issue` loads that event. -/
theorem issue_event {s : State} {ev : Event} (h : eventAt s.cmd s.cmdx s.pos = some ev) :
    issue s = .next (s.emit ev.level ev.dur) := by
  obtain ⟨p, hp, hev⟩ : ∃ p, pulseOf s.slotOp s.ph = some p ∧ pulseEvent p = ev := by
    simpa [eventAt, State.slotOp] using h
  subst hev
  clear h
  unfold issue
  by_cases h0 : s.ph = 0#1 <;> cases hop : s.slotOp <;> simp [hop, h0, pulseOf] at hp <;> subst hp <;>
    simp [execSym0, execSym1, execTrail, execGap, execEndgap, h0, pulseEvent, PulseCode.level, PulseCode.dsel]

/-- Expiry: halt where there is no next position, else `issue` there. -/
theorem expire_eq (s : State) :
    expire s = match nextPosition s.pos with
      | none => .next s.halt
      | some p => issue (s.setPos p) := rfl

/-- A plain tick of a run is its countdown or expiry. -/
theorem plainTick_run {s : State} (h : s.ready) (hst : s.st = .run) : plainTick s = runTick s := by
  unfold plainTick
  rw [guarded_ready h, hst]

/-- A plain tick of a run with more than one interval left is a countdown. -/
theorem plainTick_countdown {s : State} (h : s.ready) (hst : s.st = .run) (ht : 1 < s.tmr.toNat) :
    plainTick s = .next s.countdown := by
  rw [plainTick_run h hst]
  exact if_pos (by simpa [BitVec.lt_def] using ht)

/-- A plain tick of a run in an event's last interval is its expiry. -/
theorem plainTick_expiry {s : State} (h : s.ready) (hst : s.st = .run) (ht : s.tmr.toNat ≤ 1) :
    plainTick s = expire s := by
  rw [plainTick_run h hst]
  exact if_neg (by simpa [BitVec.lt_def] using ht)

/-- A plain tick outside a run changes nothing. -/
theorem plainTick_rest {s : State} (h : s.ready) (hst : s.st ≠ .run) : plainTick s = .next s := by
  unfold plainTick
  rw [guarded_ready h]
  cases hs : s.st <;> simp_all

/-- The timer after a countdown. -/
theorem countdown_toNat {s : State} (ht : 1 ≤ s.tmr.toNat) : s.countdown.tmr.toNat = s.tmr.toNat - 1 := by
  show (s.tmr - 1#14).toNat = _
  rw [BitVec.toNat_sub_of_le (by simpa [BitVec.le_def] using ht)]
  rfl

/-- A plain tick that answers: a ready state, and one of no change outside a run, countdown, halt, fault entry, event load. -/
theorem plainTick_next {s t : State} (h : plainTick s = .next t) :
    s.ready ∧
      ((s.st ≠ .run ∧ t = s) ∨
        (s.st = .run ∧ 1#14 < s.tmr ∧ t = s.countdown) ∨
        (s.st = .run ∧ ¬ 1#14 < s.tmr ∧ nextPosition s.pos = none ∧ t = s.halt) ∨
        (s.st = .run ∧ ¬ 1#14 < s.tmr ∧ ∃ p, nextPosition s.pos = some p ∧ issue (s.setPos p) = .next t)) := by
  obtain ⟨hr, h⟩ := (guarded_next _ _ _).1 h
  refine ⟨hr, ?_⟩
  cases hst : s.st <;> simp only [hst] at h
  case run =>
    unfold runTick at h
    split at h
    next hlt => cases h; exact .inr (.inl ⟨rfl, hlt, rfl⟩)
    next hlt =>
      rw [expire_eq] at h
      cases hp : nextPosition s.pos with
      | none => rw [hp] at h; cases h; exact .inr (.inr (.inl ⟨rfl, hlt, rfl, rfl⟩))
      | some p => rw [hp] at h; exact .inr (.inr (.inr ⟨rfl, hlt, p, rfl, h⟩))
  all_goals cases h; exact .inl ⟨by simp, rfl⟩

/-- A START that is accepted answers a fault entry, or begins the run with the new command. -/
theorem startUnder_cases (fp : FaultPrefix) (c x : CmdWord) (e : Bool) (s : State) :
    (e = true ∧ startUnder fp c x e s = .next ((s.latch c x).raise .length 0#5)) ∨
      (e = false ∧ fp = .prescan ∧
        ∃ k, firstSx x = some k ∧ startUnder fp c x e s = .next ((s.latch c x).raise .symbol (BitVec.ofNat 5 k.val))) ∨
      (e = false ∧ (firstSx x = none ∨ fp = .lazy) ∧ startUnder fp c x e s = beginRun (s.latch c x)) := by
  unfold startUnder
  cases e with
  | true => exact .inl ⟨rfl, rfl⟩
  | false =>
    cases hx : firstSx x with
    | none => exact .inr (.inr ⟨rfl, .inl rfl, rfl⟩)
    | some k =>
      cases fp with
      | prescan => exact .inr (.inl ⟨rfl, rfl, k, rfl, rfl⟩)
      | lazy => exact .inr (.inr ⟨rfl, .inr rfl, rfl⟩)

/-- A run that begins with a valid symbol 0 loads that symbol's first event. -/
theorem beginRun_event (s : State) (hx : s.cmdx.getLsbD 23 = false) :
    beginRun s =
      .next (((s.setSt .run).setPos ⟨0#4, 0#5, 0#1⟩).emit .high (if s.cmd.getLsbD 23 then 1030#14 else 390#14)) := by
  unfold beginRun
  apply issue_event (ev := ⟨.high, if s.cmd.getLsbD 23 then 1030#14 else 390#14⟩)
  show eventAt s.cmd s.cmdx ⟨0#4, 0#5, 0#1⟩ = _
  unfold eventAt
  rw [uop_symbol s.cmd s.cmdx (show 0#4 ≠ Config.repeatCount by decide) (show (0#5).toNat < 24 by decide), decodeUop_symbol]
  show Option.map pulseEvent
    (pulseOf
      (match classOf (BitVec.ofBool (s.cmdx.getLsbD 23) ++ BitVec.ofBool (s.cmd.getLsbD 23)) with
        | .s0 => SlotOp.sym0
        | .s1 => .sym1
        | .sx => .symx) 0#1) = _
  rw [hx]
  cases s.cmd.getLsbD 23 <;> rfl

/-- A run that begins with a bad symbol 0 faults in the START tick. -/
theorem beginRun_fault (s : State) (hx : s.cmdx.getLsbD 23 = true) :
    beginRun s = .next (((s.setSt .run).setPos ⟨0#4, 0#5, 0#1⟩).raise .symbol 0#5) := by
  unfold beginRun
  rw [issue_exec, slotOp_symbol ((s.setSt .run).setPos ⟨0#4, 0#5, 0#1⟩)
    (show (0#5).toNat < 24 by decide) (show 0#4 ≠ Config.repeatCount by decide)]
  have hc : symClass s.cmd s.cmdx ⟨0, by omega⟩ = .sx := (symClass_sx _ _ _).2 hx
  show exec (SlotOp.toInstr
    (match symClass s.cmd s.cmdx ⟨0, _⟩ with
      | .s0 => SlotOp.sym0
      | .s1 => .sym1
      | .sx => .symx)) _ = _
  rw [hc]
  rfl

/-- What one step can be: RESET, an accepted START, or a plain tick, each of the state with its sample used up. -/
theorem step_cases (s : State) :
    (s.ports.rst_i = true ∧ step s = .next (State.reset.withInputs s.inputs.tail)) ∨
      (s.ports.rst_i = false ∧ s.ports.start_i = true ∧ s.st = .idle ∧
        step s = s.consume.guarded
          (startUnder Config.faultPrefix s.ports.cmd_i s.ports.cmdx_i s.ports.lenerr_i s.consume)) ∨
      (s.ports.rst_i = false ∧ (s.ports.start_i = false ∨ s.st ≠ .idle) ∧ step s = plainTick s.consume) := by
  unfold step State.fetch hostop selectHostop
  cases hr : s.ports.rst_i with
  | true => exact .inl ⟨rfl, rfl⟩
  | false =>
    cases hs : s.ports.start_i with
    | false => exact .inr (.inr ⟨rfl, .inl rfl, rfl⟩)
    | true =>
      cases hst : s.st with
      | idle =>
        refine .inr (.inl ⟨rfl, rfl, rfl, ?_⟩)
        show execStart _ _ _ s.consume = _
        unfold execStart
        rw [show s.consume.st = .idle from hst]
      | run => exact .inr (.inr ⟨rfl, .inr (by simp), rfl⟩)
      | done => exact .inr (.inr ⟨rfl, .inr (by simp), rfl⟩)
      | fault => exact .inr (.inr ⟨rfl, .inr (by simp), rfl⟩)

/-- A step with a reset request. -/
theorem step_reset {s : State} (hr : s.ports.rst_i = true) :
    step s = .next (State.reset.withInputs s.inputs.tail) := by
  rcases step_cases s with ⟨_, e⟩ | ⟨b, _⟩ | ⟨b, _⟩
  · exact e
  · simp [hr] at b
  · simp [hr] at b

/-- A step with an accepted start request. -/
theorem step_start {s : State} (hr : s.ports.rst_i = false) (hs : s.ports.start_i = true) (hst : s.st = .idle) :
    step s = s.consume.guarded
      (startUnder Config.faultPrefix s.ports.cmd_i s.ports.cmdx_i s.ports.lenerr_i s.consume) := by
  rcases step_cases s with ⟨a, _⟩ | ⟨_, _, _, e⟩ | ⟨_, b, _⟩
  · simp [hr] at a
  · exact e
  · rcases b with b | b
    · simp [hs] at b
    · exact absurd hst b

/-- A step with neither. -/
theorem step_plain {s : State} (hr : s.ports.rst_i = false) (h : s.ports.start_i = false ∨ s.st ≠ .idle) :
    step s = plainTick s.consume := by
  rcases step_cases s with ⟨a, _⟩ | ⟨_, b, c, _⟩ | ⟨_, _, e⟩
  · simp [hr] at a
  · rcases h with h | h
    · simp [h] at b
    · exact absurd c h
  · exact e

/-- A step that answered was RESET, or in a ready state an accepted START or a plain tick. -/
theorem step_next {s t : State} (h : step s = .next t) :
    (s.ports.rst_i = true ∧ t = State.reset.withInputs s.inputs.tail) ∨
      (s.ports.rst_i = false ∧ s.ready ∧
        ((s.st = .idle ∧ s.ports.start_i = true ∧
            startUnder Config.faultPrefix s.ports.cmd_i s.ports.cmdx_i s.ports.lenerr_i s.consume = .next t) ∨
          ((s.ports.start_i = false ∨ s.st ≠ .idle) ∧ plainTick s.consume = .next t))) := by
  rcases step_cases s with ⟨a, e⟩ | ⟨a, b, c, e⟩ | ⟨a, b, e⟩
  · cases e.symm.trans h
    exact .inl ⟨a, rfl⟩
  · rw [e] at h
    obtain ⟨hr, h⟩ := (guarded_next _ _ _).1 h
    exact .inr ⟨a, hr, .inl ⟨c, b, h⟩⟩
  · rw [e] at h
    exact .inr ⟨a, (plainTick_next h).1, .inr ⟨b, h⟩⟩

end Sys2Proof.Machine
end

