-- ==== Sys2Proof/Laws/Reference.lean ====
section
/-! SUPPORT. Small facts about the reference functions, the positions and runs of ticks. -/

namespace Sys2Proof.Machine

open Sys2Proof

/-! The derived numbers, computed from the constants (00_scope.md R7), as the spec prints them. -/

@[simp] theorem frameEvents_eq : frameEvents = 51 := rfl
@[simp] theorem lastEvent_eq : lastEvent = 510 := rfl
@[simp] theorem slotTicks_eq : slotTicks = 1420 := rfl
@[simp] theorem frameTicks_eq : frameTicks = 45420 := rfl

/-- `firstTicks` by its two values. -/
theorem firstTicks_eq (c : CmdWord) (slot : Nat) : firstTicks c slot = if slotIsOne c slot then 1030 else 390 := rfl

/-- `start(j)` is the formula that 41_framing_sequencer.md R121 prints, j = 51 * r + q. -/
theorem startTick_printed (c : CmdWord) :
    startTick c 510 = 454200 ∧
      ∀ r q, q ≤ 50 →
        startTick c (51 * r + q) =
          if q = 50 then 45420 * r + 35500
          else if q % 2 = 0 then 45420 * r + 710 * q
          else if slotIsOne c (q / 2) then 45420 * r + 710 * q + 320
          else 45420 * r + 710 * q - 320 := by
  refine ⟨rfl, fun r q hq => ?_⟩
  have hdiv : (51 * r + q) / 51 = r := by omega
  have hmod : (51 * r + q) % 51 = q := by omega
  simp only [startTick, frameEvents_eq, slotTicks_eq, frameTicks_eq, firstTicks_eq, hdiv, hmod]
  split_ifs <;> omega

/-- One more position adds its event. -/
theorem eventsUpTo_succ {c x : CmdWord} {n : Nat} {ev : Event} (h : eventAt c x (positionAt n) = some ev) :
    eventsUpTo c x (n + 1) = eventsUpTo c x n ++ [ev] := by
  unfold eventsUpTo
  rw [List.range_succ, List.filterMap_append]
  simp [h]

/-- One more symbol adds its pair. -/
theorem pairsBefore_succ (c x : CmdWord) (k : SymIdx) :
    pairsBefore c x (k.val + 1) = pairsBefore c x k.val ++ pairOf (symClass c x k) := by
  unfold pairsBefore
  rw [List.take_add_one]
  simp [List.flatMap_append]

/-- Durations add over lists. -/
theorem totalTicks_append (a b : List Event) : totalTicks (a ++ b) = totalTicks a + totalTicks b := by
  simp [totalTicks]

/-- The bounds of a legal position (41_framing_sequencer.md R121). -/
theorem positionLegal_bounds {p : Position} (h : positionLegal p = true) :
    p.slot.toNat ≤ 25 ∧ p.rep.toNat ≤ 10 ∧ (p.slot.toNat = 25 → p.ph = 0#1) ∧
      (p.rep = Config.repeatCount → p.slot = 25#5 ∧ p.ph = 0#1) := by
  have hall : ∀ (r : BitVec 4) (s : BitVec 5) (q : BitVec 1), positionLegal ⟨r, s, q⟩ = true →
      s.toNat ≤ 25 ∧ r.toNat ≤ 10 ∧ (s.toNat = 25 → q = 0#1) ∧ (r = Config.repeatCount → s = 25#5 ∧ q = 0#1) := by
    decide +kernel
  exact hall _ _ _ h

/-- The next position of a legal position is legal. -/
theorem nextPosition_legal {p q : Position} (h : positionLegal p = true) (hn : nextPosition p = some q) :
    positionLegal q = true := by
  have hall : ∀ (r : BitVec 4) (s : BitVec 5) (f : BitVec 1), positionLegal ⟨r, s, f⟩ = true →
      (match nextPosition ⟨r, s, f⟩ with
        | none => true
        | some q => positionLegal q) = true := by
    decide +kernel
  have hq := hall p.rep p.slot p.ph h
  rw [hn] at hq
  exact hq

/-- Only the end gap, of the legal positions, has no next position. -/
theorem nextPosition_none {p : Position} (h : positionLegal p = true) (hn : nextPosition p = none) :
    p = ⟨Config.repeatCount, 25#5, 0#1⟩ := by
  have hall : ∀ (r : BitVec 4) (s : BitVec 5) (f : BitVec 1), positionLegal ⟨r, s, f⟩ = true →
      (match nextPosition ⟨r, s, f⟩ with
        | none => decide ((⟨r, s, f⟩ : Position) = ⟨Config.repeatCount, 25#5, 0#1⟩)
        | some _ => true) = true := by
    decide +kernel
  have hq := hall p.rep p.slot p.ph h
  rw [hn] at hq
  exact of_decide_eq_true hq

/-- The last tick of a run of ticks. -/
theorem runTicks_succ (n : Nat) (s t : State) (h : runTicks n s = .next t) : runTicks (n + 1) s = step t := by
  induction n generalizing s with
  | zero =>
    cases h
    simp only [runTicks]
    cases step t <;> rfl
  | succ n ih =>
    unfold runTicks at h ⊢
    cases hs : step s with
    | next u => rw [hs] at h; exact ih u h
    | fault r => rw [hs] at h; cases h
    | refused r => rw [hs] at h; cases h

/-- What holds after reset whatever the samples, and is kept by every step, holds in every reachable state. -/
theorem reachable_of_invariant {P : State → Prop} (h0 : ∀ ins, P (State.reset.withInputs ins))
    (hs : ∀ s t, P s → step s = .next t → P t) {s : State} (h : Reachable s) : P s := by
  induction h with
  | reset ins => exact h0 ins
  | step s t _ hst ih => exact hs s t ih hst

end Sys2Proof.Machine
end

