-- ==== Sys2Proof/Tests/Slice0.lean ====
section
/-! SUPPORT. The model's own tests. Expected results are the vectors of spec/95_test_vectors.md (V, P) or hand calculation from
the rules; each theorem is about one step at most. Then the witnesses: for each statement with hypotheses, values that meet them. -/

namespace Sys2Proof.Tests

open Sys2Proof Sys2Proof.Machine

/-! ### Well-formedness: one ill-formed term for each check -/

theorem test_commandString_short : commandStringWf (List.replicate 23 '0') = false := by decide
theorem test_commandString_long : commandStringWf (List.replicate 25 '1') = false := by decide
theorem test_commandString_badSymbol : commandStringWf ('x' :: List.replicate 23 '0') = false := by decide
theorem test_commandString_good : commandStringWf ('1' :: List.replicate 23 '0') = true := by decide
theorem test_constants_good : Config.constants.wf = true := by decide
theorem test_constants_shortZero : (Constants.mk 0 1030 9920 10).wf = false := by decide
theorem test_constants_shortNotBelowLong : (Constants.mk 1030 1030 9920 10).wf = false := by decide
theorem test_constants_longNotBelowSilence : (Constants.mk 390 9920 9920 10).wf = false := by decide
theorem test_constants_silenceTooLong : (Constants.mk 390 1030 16384 10).wf = false := by decide
theorem test_constants_noRepeat : (Constants.mk 390 1030 9920 0).wf = false := by decide
theorem test_constants_repeatTooOften : (Constants.mk 390 1030 9920 16).wf = false := by decide

/-! ### Encodings -/

/-- V1, V2, V3: strings to command words. -/
theorem test_string_leadingOne : commandOfString "100000000000000000000000".toList = some 0x800000#24 := by decide
theorem test_string_trailingOne : commandOfString "000000000000000000000001".toList = some 0x000001#24 := by decide
theorem test_string_mixed : commandOfString "101001011100001100111100".toList = some 0xA5C33C#24 := by decide

/-- V4: symbol cells to classes. -/
theorem test_classes : [0b00#2, 0b01#2, 0b10#2, 0b11#2].map classOf = [.s0, .s1, .sx, .sx] := by decide

/-- V5: every UOP. -/
theorem test_uops :
    (List.range 16).map (fun n => decodeUop (BitVec.ofNat 4 n)) =
      [.sym0, .sym1, .symx, .symx, .trail, .trail, .trail, .trail, .gap, .gap, .gap, .gap, .endgap, .endgap, .endgap, .endgap] := by
  decide

/-- V6: the UOP at six positions with CMD = 0x800000. -/
theorem test_uop_positions :
    [(0#4, 0#5), (0#4, 23#5), (0#4, 24#5), (0#4, 25#5), (9#4, 25#5), (10#4, 25#5)].map
      (fun q => uop 0x800000#24 0#24 q.1 q.2) = [0x1#4, 0x0#4, 0x4#4, 0x8#4, 0x8#4, 0xC#4] := by decide

/-- V7: event words. -/
theorem test_eventWords :
    [evHShort, evHLong, evLShort, evLLong, evLSil].map Event.word =
      [0x4186#15, 0x4406#15, 0x0186#15, 0x0406#15, 0x26C0#15] := by decide

/-- V8: the ROM, its reserved address without a value. -/
theorem test_rom : [0b00#2, 0b01#2, 0b10#2, 0b11#2].map romAt = [some 390#14, some 1030#14, some 9920#14, none] := by decide

/-- V9: HOSTOP 0b11 is RESET in any ST. -/
theorem test_hostop_both : [RunState.idle, .run, .done, .fault].map (fun st => hostop st ⟨true, true, 5#24, 6#24, true⟩) =
    [.reset, .reset, .reset, .reset] := by decide

/-- R81: a start request is START in IDLE only. -/
theorem test_hostop_start : [RunState.idle, .run, .done, .fault].map (fun st => hostop st (startPorts 5#24 0#24 false)) =
    [.start 5#24 0#24 false, .tick, .tick, .tick] := by decide

/-- Table words, bit by bit from R73 and R81, ignored bits set where there are some. -/
theorem test_word_sym0 : decodeTableWord 4 0b0000 = some .sym0 := by decide
theorem test_word_sym1 : decodeTableWord 4 0b0001 = some .sym1 := by decide
theorem test_word_symx : decodeTableWord 4 0b0011 = some .symx := by decide
theorem test_word_trail : decodeTableWord 4 0b0111 = some .trail := by decide
theorem test_word_gap : decodeTableWord 4 0b1001 = some .gap := by decide
theorem test_word_endgap : decodeTableWord 4 0b1110 = some .endgap := by decide
theorem test_word_reset : decodeTableWord 2 0b11 = some .reset := by decide
theorem test_word_start : decodeTableWord 2 0b01 = some (.start 0#24 0#24 false) := by decide
theorem test_word_tick : decodeTableWord 2 0b00 = some .tick := by decide
theorem test_word_stray : decodeTable 4 0b10000 = .error .strayBits := by rfl
theorem test_word_format : decodeTable 16 0 = .error .unknownFormat := by rfl

/-- V23: the next position. -/
theorem test_next :
    [Position.mk 0#4 0#5 0#1, ⟨0#4, 0#5, 1#1⟩, ⟨0#4, 23#5, 1#1⟩, ⟨0#4, 24#5, 1#1⟩, ⟨0#4, 25#5, 0#1⟩, ⟨8#4, 25#5, 0#1⟩,
      ⟨9#4, 25#5, 0#1⟩, ⟨10#4, 25#5, 0#1⟩].map nextPosition =
    [some ⟨0#4, 0#5, 1#1⟩, some ⟨0#4, 1#5, 0#1⟩, some ⟨0#4, 24#5, 0#1⟩, some ⟨0#4, 25#5, 0#1⟩, some ⟨1#4, 0#5, 0#1⟩,
      some ⟨9#4, 0#5, 0#1⟩, some ⟨10#4, 25#5, 0#1⟩, none] := by decide

/-! ### Meanings, one step each -/

/-- Whether an operation answered a next state with a property. -/
def answered (r : Result) (p : State → Bool) : Bool :=
  match r with
  | .next t => p t
  | .fault _ => false
  | .refused _ => false

/-- A run at a position, with a command and a timer value. -/
def running (c x : CmdWord) (p : Position) (d : Dur) : State :=
  { State.reset with cmd := c, cmdx := x, st := .run, rep := p.rep, slot := p.slot, ph := p.ph, tmr := d }

/-- V10. -/
theorem test_sym0_first : answered (exec .sym0 (running 0#24 0#24 ⟨0#4, 3#5, 0#1⟩ 1#14)) (fun t =>
    t.level == .high && t.tmr == 390#14 && t.stb && t.trace == [⟨.high, 390#14⟩]) = true := by decide
theorem test_sym0_second : answered (exec .sym0 (running 0#24 0#24 ⟨0#4, 3#5, 1#1⟩ 1#14)) (fun t =>
    t.level == .low && t.tmr == 1030#14) = true := by decide

/-- V11. -/
theorem test_sym1_first : answered (exec .sym1 (running 0#24 0#24 ⟨0#4, 3#5, 0#1⟩ 1#14)) (fun t =>
    t.level == .high && t.tmr == 1030#14) = true := by decide
theorem test_sym1_second : answered (exec .sym1 (running 0#24 0#24 ⟨0#4, 3#5, 1#1⟩ 1#14)) (fun t =>
    t.level == .low && t.tmr == 390#14 && t.stb) = true := by decide

/-- P4: the slot of index 5. -/
theorem test_symx : answered (exec .symx (running 0xA5C33C#24 0x040000#24 ⟨0#4, 5#5, 0#1⟩ 1#14)) (fun t =>
    t.st == .fault && t.errkind == .symbol && t.erridx == 5#5 && t.pos == ⟨0#4, 5#5, 0#1⟩ && t.trace == [] &&
      t.tmr == 0#14) = true := by decide

/-- V20, V22. -/
theorem test_trail : answered (exec .trail (running 0xFFFFFF#24 0#24 ⟨0#4, 24#5, 0#1⟩ 1#14)) (fun t =>
    t.level == .high && t.tmr == 390#14) = true := by decide
theorem test_gap : answered (exec .gap (running 0#24 0#24 ⟨0#4, 25#5, 0#1⟩ 1#14)) (fun t =>
    t.level == .low && t.tmr == 9920#14 && t.st == .run) = true := by decide
theorem test_endgap : answered (exec .endgap (running 0#24 0#24 ⟨10#4, 25#5, 0#1⟩ 1#14)) (fun t =>
    t.level == .low && t.tmr == 9920#14 && t.st == .run) = true := by decide

/-- V27, interval 0. -/
theorem test_start : answered (step (State.reset.withInputs [startPorts 0x800000#24 0#24 false])) (fun t =>
    t.level == .high && t.tmr == 1030#14 && t.stb && t.pos == ⟨0#4, 0#5, 0#1⟩ && t.st == .run) = true := by decide

/-- V37: LENGTH before SYMBOL. -/
theorem test_start_length : answered (step (State.reset.withInputs [startPorts 0xA5C33C#24 0xFFFFFF#24 true])) (fun t =>
    t.st == .fault && t.errkind == .length && t.erridx == 0#5 && t.trace == [] && t.level == .low) = true := by decide

/-- V18, V14: PRESCAN reports the lowest index and emits nothing. -/
theorem test_start_prescan : answered (startUnder .prescan 0xA5C33C#24 0x010008#24 false State.reset) (fun t =>
    t.st == .fault && t.errkind == .symbol && t.erridx == 7#5 && t.trace == [] && t.pos == ⟨0#4, 0#5, 0#1⟩) = true := by decide

/-- V15: LAZY with SX at index 0; V17: LAZY with SX later begins the run. -/
theorem test_start_lazy_first : answered (startUnder .lazy 0xA5C33C#24 0x800000#24 false State.reset) (fun t =>
    t.st == .fault && t.erridx == 0#5 && t.trace == [] && t.cmdx == 0x800000#24) = true := by decide
theorem test_start_lazy_later : answered (startUnder .lazy 0xA5C33C#24 0x010008#24 false State.reset) (fun t =>
    t.st == .run && t.trace == [⟨.high, 1030#14⟩]) = true := by decide

/-- V27: countdown from interval 0 to 1, and expiry from 1029 to 1030. -/
theorem test_tick_countdown : answered (step (running 0x800000#24 0#24 ⟨0#4, 0#5, 0#1⟩ 1030#14)) (fun t =>
    t.tmr == 1029#14 && !t.stb && t.pos == ⟨0#4, 0#5, 0#1⟩) = true := by decide
theorem test_tick_expiry : answered (step (running 0x800000#24 0#24 ⟨0#4, 0#5, 0#1⟩ 1#14)) (fun t =>
    t.level == .low && t.tmr == 390#14 && t.stb && t.pos == ⟨0#4, 0#5, 1#1⟩) = true := by decide

/-- V27, the last line: halt. -/
theorem test_tick_halt : answered (step (running 0x800000#24 0#24 ⟨10#4, 25#5, 0#1⟩ 1#14)) (fun t =>
    t.st == .done && t.tmr == 0#14 && t.pos == ⟨10#4, 25#5, 0#1⟩ && t.outputs.done_o == 1#1) = true := by decide

/-- V13: the tick that enters the slot of index 5. -/
theorem test_tick_badSymbol : answered (step (running 0xA5C33C#24 0x040000#24 ⟨0#4, 4#5, 1#1⟩ 1#14)) (fun t =>
    t.st == .fault && t.erridx == 5#5 && t.pos == ⟨0#4, 5#5, 0#1⟩ && t.outputs.err_o == 1#1) = true := by decide

/-- V34: RESET wins at the tick of the fault; V28. -/
theorem test_reset_wins : answered (step ((running 0xA5C33C#24 0x040000#24 ⟨0#4, 4#5, 1#1⟩ 1#14).withInputs
    [⟨true, true, 7#24, 0#24, false⟩])) (fun t => t == State.reset) = true := by decide

/-- V30: START is not accepted in DONE. -/
theorem test_start_done : answered (step ({ State.reset with st := .done, rep := 10#4, slot := 25#5 }.withInputs
    [startPorts 0#24 0#24 false])) (fun t => t.st == .done && t.trace == []) = true := by decide

/-- R82: a reserved code is refused; RESET is not. -/
theorem test_reserved_refused : step { State.reset with slot := 26#5 } = .refused .reservedCode := rfl
theorem test_beforeReset_refused : step { State.reset with resetSeen := false } = .refused .beforeFirstReset := rfl

/-- A placed table word is the first thing run after reset. -/
theorem test_placed_sym1 : answered (step (State.reset.withFetchWord 4 0b0001)) (fun t =>
    t.trace == [⟨.high, 1030#14⟩] && t.pos == ⟨0#4, 1#5, 0#1⟩) = true := by decide
theorem test_placed_symx : answered (step (State.reset.withFetchWord 4 0b0010)) (fun t =>
    t.st == .fault && t.erridx == 1#5) = true := by decide
theorem test_placed_trail : answered (step (State.reset.withFetchWord 4 0b0100)) (fun t =>
    t.trace == [⟨.high, 390#14⟩] && t.slot == 24#5) = true := by decide
theorem test_placed_gap : answered (step (State.reset.withFetchWord 4 0b1000)) (fun t =>
    t.trace == [⟨.low, 9920#14⟩] && t.slot == 25#5 && t.rep == 0#4) = true := by decide
theorem test_placed_endgap : answered (step (State.reset.withFetchWord 8 0b1100)) (fun t =>
    t.trace == [⟨.low, 9920#14⟩] && t.rep == 10#4) = true := by decide
theorem test_placed_start : answered (step (State.reset.withFetchWord 2 0b01)) (fun t =>
    t.st == .run && t.trace == [⟨.high, 390#14⟩]) = true := by decide

/-! ### Witnesses: values that meet the hypotheses of the statements -/

/-- A ready run in the last interval of the event at a legal position. -/
theorem running_ready : (running 0#24 0#24 ⟨0#4, 0#5, 0#1⟩ 1#14).ready := ⟨rfl, by decide⟩

/-- DecodeAndEncodeAgree: an instruction that is not START, and a row that selects a word. -/
theorem witness_decodeAndEncode :
    (∀ c x e, Instr.tick ≠ .start c x e) ∧ (⟨.endgap, 0xC#4, 0xC#4⟩ : UopRow) ∈ uopTable ∧
      (⟨.endgap, 0xC#4, 0xC#4⟩ : UopRow).selects 0xF#4 = true :=
  ⟨by intros; simp, by decide, by decide⟩

/-- HostopSelectsItsOperation: each row of the table, and each pattern. -/
theorem witness_hostop :
    (⟨true, true, 0#24, 0#24, false⟩ : Inputs).rst_i = true ∧ (startPorts 0#24 0#24 false).rst_i = false ∧
      (startPorts 0#24 0#24 false).start_i = true ∧ quiet.rst_i = false ∧ quiet.start_i = false ∧
      (0b11#2 &&& 0x2#2 = 0x2#2) ∧ (0b01#2 &&& 0x3#2 = 0x1#2) ∧ (0b00#2 &&& 0x3#2 = 0x0#2) ∧ RunState.run ≠ .idle := by decide

/-- SymbolCellAndClass: the two cells of class SX. -/
theorem witness_classes : classOf 0b10#2 = classOf 0b11#2 := by decide

/-- UopAtPosition: each clause at a boundary. -/
theorem witness_uopAtPosition :
    (23#5).toNat < 24 ∧ (9#4 : BitVec 4) ≠ Config.repeatCount ∧ (10#4 : BitVec 4) = Config.repeatCount := by decide

/-- StepRunsTheDecodedOperation, NextPositionFollowsTheFiveCases, ExpiryLoadsTheNextEvent: an expiry with a next event. -/
theorem witness_expiry :
    (running 0#24 0#24 ⟨0#4, 0#5, 0#1⟩ 1#14).ready ∧ (running 0#24 0#24 ⟨0#4, 0#5, 0#1⟩ 1#14).st = .run ∧
      (running 0#24 0#24 ⟨0#4, 0#5, 0#1⟩ 1#14).tmr = 1#14 ∧
      nextPosition (running 0#24 0#24 ⟨0#4, 0#5, 0#1⟩ 1#14).pos = some ⟨0#4, 0#5, 1#1⟩ ∧
      eventAt 0#24 0#24 ⟨0#4, 0#5, 1#1⟩ = some evLLong :=
  ⟨running_ready, rfl, rfl, by decide, by decide⟩

/-- StepRunsTheDecodedOperation, StartFollowsItsRule: a ready IDLE state and a command with a mark. -/
theorem witness_start :
    State.reset.ready ∧ State.reset.st = .idle ∧ (0x800000#24).getLsbD (23 - (0 : SymIdx).val) = true ∧
      (0x000001#24).getLsbD (23 - (23 : SymIdx).val) = true ∧
      (∀ j : SymIdx, j.val < 23 → (0x000001#24).getLsbD (23 - j.val) = false) ∧
      firstSx 0x800000#24 = some 0 ∧ firstSx 0x000001#24 = some 23 :=
  ⟨⟨rfl, by decide⟩, rfl, by decide, by decide, by decide, by decide, by decide⟩

/-- The slot operations' statements: both phases. -/
theorem witness_phases :
    (running 0#24 0#24 ⟨0#4, 0#5, 0#1⟩ 1#14).ph = 0#1 ∧ (running 0#24 0#24 ⟨0#4, 24#5, 1#1⟩ 1#14).ph = 1#1 := ⟨rfl, rfl⟩

/-- SlotOperationsLeaveTheRest: SYMX and another answer a next state. -/
theorem witness_slotOperations :
    (∃ t, exec SlotOp.symx.toInstr State.reset = .next t) ∧ (∃ t, exec SlotOp.gap.toInstr State.reset = .next t) :=
  ⟨⟨_, rfl⟩, ⟨_, rfl⟩⟩

/-- MapperDependsOnClassAndPhaseOnly: two slots of different repetitions and commands with cells of class S1, and of class SX. -/
theorem witness_mapper :
    (0#5).toNat < 24 ∧ (23#5).toNat < 24 ∧ (0#4 : BitVec 4) ≠ Config.repeatCount ∧ (9#4 : BitVec 4) ≠ Config.repeatCount ∧
      symClass 0x800000#24 0#24 ⟨0, by decide⟩ = symClass 0x000001#24 0#24 ⟨23, by decide⟩ ∧
      symClass 0#24 0x800000#24 ⟨0, by decide⟩ = symClass 0xFFFFFF#24 0x000001#24 ⟨23, by decide⟩ := by decide

/-- GrammarTableHolds: an operation and phase with an event. -/
theorem witness_grammar : pulseOf .gap (running 0#24 0#24 ⟨0#4, 25#5, 0#1⟩ 1#14).ph = some .lSil := by decide

/-- NextPositionFollowsTheFiveCases: the boundaries of its ranges, and a step of a run. -/
theorem witness_nextPosition :
    (24#5).toNat ≤ 24 ∧ (8#4).toNat < 9 ∧
      (∃ t, step (running 0#24 0#24 ⟨0#4, 0#5, 0#1⟩ 2#14) = .next t) ∧
      (∃ t, step (running 0#24 0#24 ⟨10#4, 25#5, 0#1⟩ 1#14) = .next t) ∧
      (∃ t, step (running 0#24 0#24 ⟨9#4, 25#5, 0#1⟩ 1#14) = .next t) ∧
      (running 0#24 0#24 ⟨0#4, 0#5, 0#1⟩ 2#14).ports.rst_i = false :=
  ⟨by decide, by decide, ⟨_, rfl⟩, ⟨_, rfl⟩, ⟨_, rfl⟩, rfl⟩

/-- The state of the run of the command of zeros in the last interval of its end gap. -/
def atEndgap : State :=
  { running 0#24 0#24 ⟨10#4, 25#5, 0#1⟩ 1#14 with
    trace := eventsUpTo 0#24 0#24 (510 + 1) }

/-- EndgapExpiryHalts: that state meets the invariant; and a ready DONE state with no reset on the ports. -/
theorem witness_endgap :
    atEndgap.ready ∧ atEndgap.st = .run ∧ atEndgap.tmr = 1#14 ∧ atEndgap.pos = ⟨Config.repeatCount, 25#5, 0#1⟩ ∧ Inv atEndgap ∧
      { State.reset with st := .done }.ready ∧ { State.reset with st := .done }.ports.rst_i = false := by
  have hpos : positionLegal ⟨10#4, 25#5, 0#1⟩ = true := by decide
  have hev : eventAt 0#24 0#24 ⟨10#4, 25#5, 0#1⟩ = some evLSil := by decide
  have hwire : (1 : Nat) ≤ (1#14).toNat ∧ (1#14).toNat ≤ evLSil.dur.toNat ∧ (false = true ↔ 1#14 = evLSil.dur) := by decide
  have hready : (false || !positionLegal ⟨10#4, 25#5, 0#1⟩) = false := by decide
  have hidx : positionIndex atEndgap.pos = 510 := if_pos rfl
  have htrace : atEndgap.trace = eventsUpTo atEndgap.cmd atEndgap.cmdx (positionIndex atEndgap.pos + 1) := by
    rw [hidx]; simp only [atEndgap, running, State.reset]
  exact ⟨⟨rfl, hready⟩, rfl, rfl, rfl,
    ⟨rfl, hpos, ⟨evLSil, hev, rfl, hwire⟩, rfl, rfl, fun i _ => BitVec.getLsbD_zero, fun _ => rfl, htrace⟩,
    ⟨rfl, by decide⟩, rfl⟩

/-- RepetitionsAreAlike, PositionsFormOneChain: the last event of the last frame. -/
theorem witness_repetitions : 509 ≤ 509 ∧ (509 : Nat) < 510 ∧ (0#24 : CmdWord) = 0#24 := by decide

/-- CountdownOfAnEvent: the last interval of an event of 390, the strobe up, no reset among the samples. -/
theorem witness_countdown :
    { running 0#24 0#24 ⟨0#4, 0#5, 0#1⟩ 390#14 with stb := true }.ready ∧ 1 < (390#14).toNat ∧ 389 < (390#14).toNat ∧
      ∀ p ∈ List.take 389 [startPorts 1#24 0#24 false, quiet], p.rst_i = false :=
  ⟨⟨rfl, by decide⟩, by decide, by decide, by decide⟩

/-- ExpiryIntoABadSymbolFaults: symbol 23 is SX. -/
theorem witness_badSymbol :
    (running 0#24 0x000001#24 ⟨0#4, 22#5, 1#1⟩ 1#14).ready ∧
      nextPosition (running 0#24 0x000001#24 ⟨0#4, 22#5, 1#1⟩ 1#14).pos = some ⟨0#4, 23#5, 0#1⟩ ∧
      symClass 0#24 0x000001#24 ⟨23, by decide⟩ = .sx :=
  ⟨⟨rfl, by decide⟩, by decide, by decide⟩

/-- TickOutsideARunChangesNothing, StartOutsideIdleIsIgnored: a ready state of each kind. -/
theorem witness_outsideRun :
    State.reset.ready ∧ State.reset.st ≠ .run ∧ { State.reset with st := .fault, errkind := .symbol }.ready ∧
      { State.reset with st := .fault, errkind := .symbol }.st ≠ .idle :=
  ⟨⟨rfl, by decide⟩, by decide, ⟨rfl, by decide⟩, by decide⟩

/-- ResetWinsAndErasesEverything, ResetKillsARunAtOnce: a reset on the ports. -/
theorem witness_reset :
    (⟨true, false, 0#24, 0#24, false⟩ : Inputs).rst_i = true ∧
      (∃ t, runTicks 1 (State.reset.withInputs [startPorts 0#24 0#24 false, ⟨true, false, 0#24, 0#24, false⟩]) = .next t ∧
        t.inputs = [⟨true, false, 0#24, 0#24, false⟩]) ∧
      ∀ q ∈ ([] : List Inputs), q.start_i = false :=
  ⟨rfl, ⟨_, rfl, rfl⟩, by simp⟩

/-- BeforeTheFirstResetOnlyResetSteps: a power-on state, with and without a reset on the ports. -/
theorem witness_powerOn :
    { State.reset with resetSeen := false }.resetSeen = false ∧ { State.reset with resetSeen := false }.ports.rst_i = false ∧
      ({ State.reset with resetSeen := false }.withInputs [⟨true, false, 0#24, 0#24, false⟩]).ports.rst_i = true := ⟨rfl, rfl, rfl⟩

/-- ReservedCodesAreRefused: each kind of reserved code at its boundary. -/
theorem witness_reserved :
    { State.reset with errkind := .reserved }.errkind = .reserved ∧ 25 < (26#5).toNat ∧ 10 < (11#4).toNat ∧
      (running 0#24 0#24 ⟨0#4, 25#5, 1#1⟩ 1#14).slot = 25#5 ∧ (running 0#24 0#24 ⟨0#4, 25#5, 1#1⟩ 1#14).ph = 1#1 ∧
      (running 0#24 0#24 ⟨10#4, 24#5, 0#1⟩ 1#14).rep = 10#4 ∧ (running 0#24 0#24 ⟨10#4, 24#5, 0#1⟩ 1#14).slot ≠ 25#5 ∧
      State.reset.resetSeen = true := by decide

/-- A wrong length from reset: the state START leaves. -/
theorem lengthFault_step :
    step (State.reset.withInputs [startPorts 0#24 0#24 true]) =
      .next { State.reset with st := .fault, errkind := .length } := rfl

/-- A good command from reset: the state START leaves. -/
theorem goodStart_step :
    step (State.reset.withInputs [startPorts 0#24 0#24 false]) =
      .next { State.reset with st := .run, level := .high, tmr := 390#14, stb := true, trace := [⟨.high, 390#14⟩] } := rfl

/-- The statements about any step: steps that count down, that enter FAULT from IDLE and from RUN, that halt, that a START and a
reset make. -/
theorem witness_steps :
    (∃ t, step (State.reset.withInputs [startPorts 0#24 0#24 true]) = .next t ∧ t.st = .fault) ∧
      (∃ t, step (State.reset.withInputs [startPorts 0#24 0#24 false]) = .next t ∧ t.st = .run) ∧
      (∃ t, step (State.reset.withInputs [⟨true, false, 0#24, 0#24, false⟩]) = .next t ∧ t.st = .idle) ∧
      (∃ t, step (running 0#24 0x000001#24 ⟨0#4, 22#5, 1#1⟩ 1#14) = .next t ∧ t.st = .fault) ∧
      (∃ t, step (running 0#24 0#24 ⟨10#4, 25#5, 0#1⟩ 1#14) = .next t ∧ t.st = .done) ∧
      (∃ t, step { State.reset with st := .done } = .next t ∧ t.st = .done) ∧
      (∃ t, step State.reset = .next t ∧ t.st = .idle) :=
  ⟨⟨_, rfl, rfl⟩, ⟨_, rfl, rfl⟩, ⟨_, rfl, rfl⟩, ⟨_, rfl, rfl⟩, ⟨_, rfl, rfl⟩, ⟨_, rfl, rfl⟩, ⟨_, rfl, rfl⟩⟩

/-- FaultEntryWritesSixRegisters: a START of a command of the right length whose symbol 0 is SX faults under both values of
FAULT_PREFIX, with that index and at the position (0, 0, 0). -/
theorem witness_startSymbolFault :
    (State.reset.withInputs [startPorts 0#24 0x800000#24 false]).st = .idle ∧
      (State.reset.withInputs [startPorts 0#24 0x800000#24 false]).ports.lenerr_i = false ∧
      ∃ t, step (State.reset.withInputs [startPorts 0#24 0x800000#24 false]) = .next t ∧ t.st = .fault ∧ t.errkind = .symbol ∧
        t.erridx = 0#5 ∧ t.pos = ⟨0#4, 0#5, 0#1⟩ := by
  refine ⟨rfl, rfl, ?_⟩
  have hstep : step (State.reset.withInputs [startPorts 0#24 0x800000#24 false]) =
      startUnder Config.faultPrefix 0#24 0x800000#24 false State.reset := rfl
  rw [hstep]
  cases Config.faultPrefix <;> exact ⟨_, rfl, rfl, rfl, rfl, rfl⟩

/-- CommandPortsAreReadAtStartOnly: two samples that differ in the command only, at a tick with no start request. -/
theorem witness_ports :
    (⟨false, false, 1#24, 0#24, false⟩ : Inputs).rst_i = (⟨false, false, 2#24, 3#24, true⟩ : Inputs).rst_i ∧
      (⟨false, false, 1#24, 0#24, false⟩ : Inputs).start_i = (⟨false, false, 2#24, 3#24, true⟩ : Inputs).start_i ∧
      (⟨false, false, 1#24, 0#24, false⟩ : Inputs).start_i = false := ⟨rfl, rfl, rfl⟩

/-- EveryStepKeepsTheInvariant: a state that meets the invariant in a run, and its step. -/
theorem witness_invariant : Inv atEndgap ∧ ∃ t, step atEndgap = .next t := ⟨witness_endgap.2.2.2.2.1, ⟨_, rfl⟩⟩

/-- The statements about reachable states: one in IDLE, one in a run with LEVEL HIGH and the strobe up, one after a fault, with
the steps into them. -/
theorem witness_reachable :
    Reachable State.reset ∧ State.reset.st = .idle ∧
      (∃ t, Reachable (State.reset.withInputs [startPorts 0#24 0#24 false]) ∧
        step (State.reset.withInputs [startPorts 0#24 0#24 false]) = .next t ∧ Reachable t ∧ t.stb = true ∧ t.ph = 0#1 ∧
        t.slot.toNat ≤ 24 ∧ t.level = .high) ∧
      (∃ t, Reachable (State.reset.withInputs [startPorts 0#24 0#24 true]) ∧
        step (State.reset.withInputs [startPorts 0#24 0#24 true]) = .next t ∧ Reachable t ∧ t.st = .fault) :=
  ⟨.reset [], rfl, ⟨_, .reset _, goodStart_step, .step _ _ (.reset _) goodStart_step, rfl, rfl, by decide, rfl⟩,
    ⟨_, .reset _, lengthFault_step, .step _ _ (.reset _) lengthFault_step, rfl⟩⟩

/-- BothReadingsAgreeOnTheVerdict, ValueBitsUnderMarksAreIgnored: a command with marks, and two commands that differ under a mark. -/
theorem witness_eventLists :
    firstSx 0x010008#24 = some 7 ∧
      ∀ i : SymIdx, (0x800000#24).getLsbD (23 - i.val) = false →
        (0x800000#24).getLsbD (23 - i.val) = (0x000000#24).getLsbD (23 - i.val) := by decide

/-- The statements about runs: a reachable IDLE state with a START on the ports, well formed, with a mark, or with a wrong length. -/
theorem witness_runs :
    Reachable (State.reset.withInputs [startPorts 0xA5C33C#24 0#24 false, quiet]) ∧
      Reachable (State.reset.withInputs [startPorts 0xA5C33C#24 0x000001#24 false, quiet]) ∧
      Reachable (State.reset.withInputs [startPorts 0xA5C33C#24 0#24 true, quiet]) ∧
      (State.reset.withInputs [startPorts 0xA5C33C#24 0#24 false, quiet]).st = .idle ∧
      (∀ p ∈ [quiet], p.rst_i = false) ∧ firstSx 0x000001#24 = some 23 :=
  ⟨.reset _, .reset _, .reset _, rfl, by decide, by decide⟩

end Sys2Proof.Tests
end

section
/-! ### Positions: the number of a position, and the chain they form (41_framing_sequencer.md R113, R121) -/

namespace Sys2Proof.Machine

open Sys2Proof

/-- Positions are equal where their three numbers are. -/
theorem position_ext_toNat {p q : Position} (hr : p.rep.toNat = q.rep.toNat) (hs : p.slot.toNat = q.slot.toNat)
    (hp : p.ph.toNat = q.ph.toNat) : p = q := by
  cases p; cases q
  simp only [Position.mk.injEq]
  exact ⟨BitVec.eq_of_toNat_eq hr, BitVec.eq_of_toNat_eq hs, BitVec.eq_of_toNat_eq hp⟩

/-- A phase is 0 or 1. -/
theorem phase_cases (b : BitVec 1) : b = 0#1 ∨ b = 1#1 := by
  revert b; decide

/-- A repetition below 10 is not the end gap's. -/
theorem rep_ne_of_lt {rep : BitVec 4} (h : rep.toNat < 10) : rep ≠ Config.repeatCount := by
  rintro rfl
  exact absurd h (by decide)

/-- Every event but the last, the gap's too, is numbered by one formula (R121). -/
theorem positionAt_of_lt {j : Nat} (h : j < 510) :
    positionAt j = ⟨BitVec.ofNat 4 (j / 51), BitVec.ofNat 5 (j % 51 / 2), BitVec.ofNat 1 (j % 51 % 2)⟩ := by
  unfold positionAt
  rw [if_neg (by simp; omega), frameEvents_eq]
  split
  next hgap => rw [hgap]
  next => rfl

@[simp] theorem positionAt_last : positionAt 510 = ⟨10#4, 25#5, 0#1⟩ := rfl

theorem positionAt_rep {j : Nat} (h : j < 510) : (positionAt j).rep.toNat = j / 51 := by
  rw [positionAt_of_lt h]
  exact Nat.mod_eq_of_lt (by omega)

theorem positionAt_slot {j : Nat} (h : j < 510) : (positionAt j).slot.toNat = j % 51 / 2 := by
  rw [positionAt_of_lt h]
  exact Nat.mod_eq_of_lt (by omega)

theorem positionAt_ph {j : Nat} (h : j < 510) : (positionAt j).ph.toNat = j % 51 % 2 := by
  rw [positionAt_of_lt h]
  exact Nat.mod_eq_of_lt (by omega)

/-- A position with the numbers of event j is the position of event j. -/
theorem eq_positionAt {j : Nat} {p : Position} (h : j < 510) (hr : p.rep.toNat = j / 51)
    (hs : p.slot.toNat = j % 51 / 2) (hp : p.ph.toNat = j % 51 % 2) : p = positionAt j :=
  position_ext_toNat (hr.trans (positionAt_rep h).symm) (hs.trans (positionAt_slot h).symm)
    (hp.trans (positionAt_ph h).symm)

/-- Only the end gap stands in repetition 10. -/
theorem positionAt_rep_ne {j : Nat} (h : j < 510) : (positionAt j).rep ≠ Config.repeatCount :=
  rep_ne_of_lt (by rw [positionAt_rep h]; omega)

/-- The number of a position outside the end gap. -/
theorem positionIndex_of_rep_ne {p : Position} (h : p.rep ≠ Config.repeatCount) :
    positionIndex p = 51 * p.rep.toNat + 2 * p.slot.toNat + p.ph.toNat := if_neg h

/-- The number of the position of event j is j. -/
@[simp] theorem positionIndex_positionAt {j : Nat} (h : j ≤ 510) : positionIndex (positionAt j) = j := by
  rcases Nat.lt_or_eq_of_le h with hlt | rfl
  · rw [positionIndex_of_rep_ne (positionAt_rep_ne hlt), positionAt_rep hlt, positionAt_slot hlt, positionAt_ph hlt]
    omega
  · rfl

/-- The legal positions by their numbers (R121). -/
theorem positionLegal_iff (p : Position) :
    positionLegal p = true ↔
      (p.rep.toNat < 10 ∧ (p.slot.toNat ≤ 24 ∨ (p.slot.toNat = 25 ∧ p.ph.toNat = 0))) ∨ p = ⟨10#4, 25#5, 0#1⟩ := by
  have hcount : Config.repeatCount = 10#4 := rfl
  cases p
  simp [positionLegal, hcount, BitVec.lt_def, BitVec.le_def, ← BitVec.toNat_inj, and_assoc]

/-- A legal position stands on the chain, at its own number. -/
theorem positionAt_positionIndex {p : Position} (h : positionLegal p = true) :
    positionIndex p ≤ 510 ∧ positionAt (positionIndex p) = p := by
  rcases (positionLegal_iff p).1 h with ⟨hr, hs⟩ | rfl
  · have hi := positionIndex_of_rep_ne (rep_ne_of_lt hr)
    have hph : p.ph.toNat < 2 := p.ph.isLt
    have hq : positionIndex p / 51 = p.rep.toNat := by omega
    exact ⟨by omega, (eq_positionAt (by omega) hq.symm (by omega) (by omega)).symm⟩
  · exact ⟨le_rfl, rfl⟩

/-- Every position of the chain is legal. -/
theorem positionLegal_positionAt {j : Nat} (h : j ≤ 510) : positionLegal (positionAt j) = true := by
  rcases Nat.lt_or_eq_of_le h with hlt | rfl
  · refine (positionLegal_iff _).2 (.inl ?_)
    rw [positionAt_rep hlt, positionAt_slot hlt, positionAt_ph hlt]
    omega
  · decide

/-- The 511 positions of the chain are the legal ones. -/
theorem positionLegal_iff_positionAt (p : Position) : positionLegal p = true ↔ ∃ j ≤ 510, p = positionAt j := by
  constructor
  · intro h
    obtain ⟨hi, hp⟩ := positionAt_positionIndex h
    exact ⟨_, hi, hp.symm⟩
  · rintro ⟨j, hj, rfl⟩
    exact positionLegal_positionAt hj

/-! The cases of `next` (R113), one equation each. -/

theorem nextPosition_first {p : Position} (hs : p.slot.toNat ≤ 24) (hp : p.ph = 0#1) :
    nextPosition p = some ⟨p.rep, p.slot, 1#1⟩ :=
  if_pos ⟨by simpa [BitVec.le_def] using hs, hp⟩

theorem nextPosition_second {p : Position} (hs : p.slot.toNat ≤ 24) (hp : p.ph = 1#1) :
    nextPosition p = some ⟨p.rep, p.slot + 1#5, 0#1⟩ := by
  have hle : p.slot ≤ 24#5 := by simpa [BitVec.le_def] using hs
  simp [nextPosition, hle, hp]

theorem nextPosition_gap {p : Position} (hs : p.slot = 25#5) (hr : p.rep.toNat < 9) :
    nextPosition p = some ⟨p.rep + 1#4, 0#5, 0#1⟩ := by
  have hlt : p.rep < Config.repeatCount - 1#4 := by
    show p.rep < 9#4
    simpa [BitVec.lt_def] using hr
  simp [nextPosition, hs, hlt]

/-- The next-position function walks the chain in order. -/
theorem nextPosition_positionAt {j : Nat} (h : j < 510) : nextPosition (positionAt j) = some (positionAt (j + 1)) := by
  have hr := positionAt_rep h
  have hs := positionAt_slot h
  have hp := positionAt_ph h
  by_cases hgap : j % 51 = 50
  · have hslot : (positionAt j).slot = 25#5 := BitVec.eq_of_toNat_eq (by simp; omega)
    rcases Nat.lt_or_ge j 509 with hlt | hge
    · rw [nextPosition_gap hslot (by omega)]
      congr 1
      exact eq_positionAt (by omega) (by simp; omega) (by simp; omega) (by simp; omega)
    · obtain rfl : j = 509 := by omega
      decide
  · have hrep : (j + 1) / 51 = j / 51 := by omega
    rcases phase_cases (positionAt j).ph with hph | hph
    · rw [nextPosition_first (by omega) hph]
      rw [hph] at hp
      simp at hp
      congr 1
      exact eq_positionAt (by omega) (by simp; omega) (by simp; omega) (by simp; omega)
    · rw [nextPosition_second (by omega) hph]
      rw [hph] at hp
      simp at hp
      congr 1
      exact eq_positionAt (by omega) (by simp; omega) (by simp; omega) (by simp; omega)

/-- From a legal position the next one is legal and its number is the next number. -/
theorem positionIndex_next {p q : Position} (h : positionLegal p = true) (hn : nextPosition p = some q) :
    positionLegal q = true ∧ positionIndex q = positionIndex p + 1 := by
  obtain ⟨j, hj, rfl⟩ := (positionLegal_iff_positionAt p).1 h
  have hlt : j < 510 := by
    refine lt_of_le_of_ne hj ?_
    rintro rfl
    cases hn
  rw [nextPosition_positionAt hlt] at hn
  cases hn
  simp [positionLegal_positionAt, hlt, hj]

/-- Settles O19. -/
theorem positionsFormOneChain : Obligations.PositionsFormOneChain :=
  ⟨rfl, positionAt_last, fun _ hj => nextPosition_positionAt hj, by decide, fun _ hj => positionIndex_positionAt hj,
    positionLegal_iff_positionAt⟩

end Sys2Proof.Machine
end

section
/-! ### What a slot operation and a tick can do, and the frame statements that follow (10_state.md R23, R33 to R37, R40) -/

namespace Sys2Proof.Machine

open Sys2Proof

/-- The pulse code a slot operation loads in a phase: the grammar table's, in a phase that GAP and ENDGAP do not have too
(entry 13); none for SYMX. -/
def issuedPulse : SlotOp → BitVec 1 → Option PulseCode
  | .gap, _ => some .lSil
  | .endgap, _ => some .lSil
  | op, ph => pulseOf op ph

/-- What a slot operation can do: load the event of its pulse code, or, SYMX alone, the fault entry. -/
inductive SlotEffect (op : SlotOp) (s : State) : State → Prop
  | load (p : PulseCode) (h : issuedPulse op s.ph = some p) : SlotEffect op s (s.emit p.level (rom p.dsel))
  | fault (h : op = .symx) : SlotEffect op s (s.raise .symbol s.slot)

/-- The shape of SYM0, SYM1 and TRAIL: one pulse code in each of two phases. -/
theorem loadsByPhase {s : State} {a b p : PulseCode} (h : (if s.ph = 0#1 then some a else some b) = some p) :
    (if s.ph = 0#1 then .next (s.emit a.level (rom a.dsel)) else .next (s.emit b.level (rom b.dsel)) : Result) =
      .next (s.emit p.level (rom p.dsel)) := by
  by_cases hp : s.ph = 0#1
  · rw [if_pos hp] at h ⊢
    cases h
    rfl
  · rw [if_neg hp] at h ⊢
    cases h
    rfl

/-- A slot operation with a pulse code loads its event. -/
theorem exec_of_issuedPulse {op : SlotOp} {s : State} {p : PulseCode} (h : issuedPulse op s.ph = some p) :
    exec op.toInstr s = .next (s.emit p.level (rom p.dsel)) := by
  cases op with
  | symx => cases h
  | gap | endgap => cases h; rfl
  | sym0 => exact loadsByPhase (a := .hShort) (b := .lLong) h
  | sym1 => exact loadsByPhase (a := .hLong) (b := .lShort) h
  | trail => exact loadsByPhase (a := .hShort) (b := .lLong) h

/-- Every slot operation but SYMX has a pulse code. -/
theorem issuedPulse_isSome {op : SlotOp} (ph : BitVec 1) (h : op ≠ .symx) : ∃ p, issuedPulse op ph = some p := by
  cases op with
  | symx => exact absurd rfl h
  | gap | endgap => exact ⟨_, rfl⟩
  | sym0 | sym1 | trail =>
    simp only [issuedPulse, pulseOf]
    split <;> exact ⟨_, rfl⟩

/-- A slot operation answers exactly the states of its effect. -/
theorem exec_slotOp_iff {op : SlotOp} {s t : State} : exec op.toInstr s = .next t ↔ SlotEffect op s t := by
  constructor
  · intro h
    by_cases hop : op = .symx
    · subst hop
      cases h
      exact .fault rfl
    · obtain ⟨p, hp⟩ := issuedPulse_isSome s.ph hop
      cases (exec_of_issuedPulse hp).symm.trans h
      exact .load p hp
  · rintro (⟨p, hp⟩ | rfl)
    · exact exec_of_issuedPulse hp
    · rfl

/-- `issue` answers exactly the states of the effect of the slot operation at the position. -/
theorem issue_iff {s t : State} : issue s = .next t ↔ SlotEffect s.slotOp s t := by
  rw [issue_exec, exec_slotOp_iff]

/-- The state in which an accepted START that begins a run issues its first operation (R141). -/
def State.started (s : State) : State :=
  ((s.consume.latch s.ports.cmd_i s.ports.cmdx_i).setSt .run).setPos ⟨0#4, 0#5, 0#1⟩

variable (s : State)

@[simp] theorem State.started_cmd : s.started.cmd = s.ports.cmd_i := rfl
@[simp] theorem State.started_cmdx : s.started.cmdx = s.ports.cmdx_i := rfl
@[simp] theorem State.started_st : s.started.st = .run := rfl
@[simp] theorem State.started_pos : s.started.pos = ⟨0#4, 0#5, 0#1⟩ := rfl
@[simp] theorem State.started_errkind : s.started.errkind = s.errkind := rfl
@[simp] theorem State.started_erridx : s.started.erridx = s.erridx := rfl
@[simp] theorem State.started_trace : s.started.trace = s.trace := rfl
@[simp] theorem State.started_resetSeen : s.started.resetSeen = s.resetSeen := rfl

/-- What a tick without a reset can do (R131, R141, R143): the outcomes of an accepted START, no change outside a run,
countdown, halt, and the entry into the next position. -/
inductive TickEffect (s : State) : State → Prop
  | lengthFault (hst : s.st = .idle) (hs : s.ports.start_i = true) (he : s.ports.lenerr_i = true) :
      TickEffect s ((s.consume.latch s.ports.cmd_i s.ports.cmdx_i).raise .length 0#5)
  | prescanFault (hst : s.st = .idle) (hs : s.ports.start_i = true) (he : s.ports.lenerr_i = false)
      (hfp : Config.faultPrefix = .prescan) (k : SymIdx) (hk : firstSx s.ports.cmdx_i = some k) :
      TickEffect s ((s.consume.latch s.ports.cmd_i s.ports.cmdx_i).raise .symbol (BitVec.ofNat 5 k.val))
  | beginsRun (hst : s.st = .idle) (hs : s.ports.start_i = true) (he : s.ports.lenerr_i = false)
      (hx : firstSx s.ports.cmdx_i = none ∨ Config.faultPrefix = .lazy) (t : State)
      (ht : SlotEffect s.started.slotOp s.started t) : TickEffect s t
  | rest (hst : s.st ≠ .run) (hs : s.ports.start_i = false ∨ s.st ≠ .idle) : TickEffect s s.consume
  | countdown (hst : s.st = .run) (htmr : 1 < s.tmr.toNat) : TickEffect s s.consume.countdown
  | halt (hst : s.st = .run) (htmr : s.tmr.toNat ≤ 1) (hn : nextPosition s.pos = none) : TickEffect s s.consume.halt
  | enters (hst : s.st = .run) (htmr : s.tmr.toNat ≤ 1) (p : Position) (hn : nextPosition s.pos = some p) (t : State)
      (ht : SlotEffect (s.consume.setPos p).slotOp (s.consume.setPos p) t) : TickEffect s t

variable {s} {t : State}

/-- What an accepted START answers is an effect of its tick. -/
theorem tickEffect_of_startUnder (hst : s.st = .idle) (hs : s.ports.start_i = true)
    (h : startUnder Config.faultPrefix s.ports.cmd_i s.ports.cmdx_i s.ports.lenerr_i s.consume = .next t) :
    TickEffect s t := by
  rcases startUnder_cases Config.faultPrefix s.ports.cmd_i s.ports.cmdx_i s.ports.lenerr_i s.consume with
    ⟨he, e⟩ | ⟨he, hfp, k, hk, e⟩ | ⟨he, hx, e⟩
  · cases e.symm.trans h
    exact .lengthFault hst hs he
  · cases e.symm.trans h
    exact .prescanFault hst hs he hfp k hk
  · exact .beginsRun hst hs he hx t (issue_iff.1 (e.symm.trans h))

/-- What a plain tick answers is an effect of its tick. -/
theorem tickEffect_of_plainTick (hs : s.ports.start_i = false ∨ s.st ≠ .idle) (h : plainTick s.consume = .next t) :
    TickEffect s t := by
  have hle : ¬ 1#14 < s.tmr → s.tmr.toNat ≤ 1 := by simp [BitVec.lt_def]
  rcases (plainTick_next h).2 with
    ⟨hst, rfl⟩ | ⟨hst, htmr, rfl⟩ | ⟨hst, htmr, hn, rfl⟩ | ⟨hst, htmr, p, hn, ht⟩
  · exact .rest hst hs
  · exact .countdown hst (by simpa [BitVec.lt_def] using htmr)
  · exact .halt hst (hle htmr) hn
  · exact .enters (s := s) hst (hle htmr) p hn t (issue_iff.1 ht)

/-- In a ready state the step of an accepted START is its operation. -/
theorem step_of_startUnder (hr : s.ports.rst_i = false) (hready : s.ready) (hst : s.st = .idle)
    (hs : s.ports.start_i = true) :
    step s = startUnder Config.faultPrefix s.ports.cmd_i s.ports.cmdx_i s.ports.lenerr_i s.consume := by
  rw [step_start hr hs hst]
  exact guarded_ready (s := s.consume) hready _

/-- Every effect of a tick in a ready state is what the step answers. -/
theorem step_of_tickEffect (hr : s.ports.rst_i = false) (hready : s.ready) (h : TickEffect s t) : step s = .next t := by
  have hc : s.consume.ready := hready
  cases h with
  | lengthFault hst hs he =>
    rw [step_of_startUnder hr hready hst hs, he]
    rfl
  | prescanFault hst hs he hfp k hk =>
    rw [step_of_startUnder hr hready hst hs, he, hfp]
    simp [startUnder, hk]
  | beginsRun hst hs he hx _ ht =>
    rw [step_of_startUnder hr hready hst hs, he, ← issue_iff.2 ht]
    unfold startUnder
    rcases hx with hx | hx
    · rw [hx]; rfl
    · rw [hx]; cases firstSx s.ports.cmdx_i <;> rfl
  | rest hst hs =>
    rw [step_plain hr hs]
    exact plainTick_rest hc hst
  | countdown hst htmr =>
    rw [step_plain hr (.inr (by simp [hst]))]
    exact plainTick_countdown hc hst htmr
  | halt hst htmr hn =>
    rw [step_plain hr (.inr (by simp [hst])), plainTick_expiry hc hst htmr, expire_eq, State.consume_pos, hn]
  | enters hst htmr p hn _ ht =>
    rw [step_plain hr (.inr (by simp [hst])), plainTick_expiry hc hst htmr, expire_eq, State.consume_pos, hn]
    exact issue_iff.2 ht

/-- A step without a reset answers exactly the effects of its tick, in a ready state. -/
theorem step_iff (hr : s.ports.rst_i = false) : step s = .next t ↔ s.ready ∧ TickEffect s t := by
  constructor
  · intro h
    rcases step_next h with ⟨hr', _⟩ | ⟨_, hready, ⟨hst, hs, h⟩ | ⟨hs, h⟩⟩
    · simp [hr] at hr'
    · exact ⟨hready, tickEffect_of_startUnder hst hs h⟩
    · exact ⟨hready, tickEffect_of_plainTick hs h⟩
  · rintro ⟨hready, h⟩
    exact step_of_tickEffect hr hready h

/-- A step is a reset, or an effect of its tick in a ready state. -/
theorem step_effect (h : step s = .next t) :
    (s.ports.rst_i = true ∧ t = State.reset.withInputs s.inputs.tail) ∨
      (s.ports.rst_i = false ∧ s.ready ∧ TickEffect s t) := by
  cases hr : s.ports.rst_i with
  | true =>
    cases (step_reset hr).symm.trans h
    exact .inl ⟨rfl, rfl⟩
  | false => exact .inr ⟨rfl, (step_iff hr).1 h⟩

/-! What slot operations leave unchanged. -/

/-- Settles O15: neither the event load nor the fault entry writes more. -/
theorem slotOperationsLeaveTheRest : Obligations.SlotOperationsLeaveTheRest := by
  intro op s t h
  cases exec_slotOp_iff.1 h with
  | load p hp =>
    have hop : op ≠ .symx := by
      rintro rfl
      cases hp
    simp [hop]
  | fault hop => simp [hop]

/-- No slot operation writes the command store. -/
theorem SlotEffect.store {op : SlotOp} (h : SlotEffect op s t) : t.cmd = s.cmd ∧ t.cmdx = s.cmdx := by
  cases h <;> simp

/-- A slot operation keeps ST, or SYMX makes it FAULT. -/
theorem SlotEffect.st {op : SlotOp} (h : SlotEffect op s t) : t.st = s.st ∨ (t.st = .fault ∧ op = .symx) := by
  cases h with
  | load => exact .inl rfl
  | fault hop => exact .inr ⟨rfl, hop⟩

/-- A slot operation keeps the error registers, or makes ST FAULT with ERRKIND = SYMBOL. -/
theorem SlotEffect.errors {op : SlotOp} (h : SlotEffect op s t) :
    (t.st = s.st ∧ t.errkind = s.errkind ∧ t.erridx = s.erridx) ∨ (t.st = .fault ∧ t.errkind = .symbol) := by
  cases h with
  | load => exact .inl ⟨rfl, rfl, rfl⟩
  | fault => exact .inr ⟨rfl, rfl⟩

/-- A slot operation appends the event it loads, with the strobe up, or nothing, with the strobe down. -/
theorem SlotEffect.trace {op : SlotOp} (h : SlotEffect op s t) :
    t.trace = if t.stb then s.trace ++ [⟨t.level, t.tmr⟩] else s.trace := by
  cases h <;> simp

/-- Settles O24. -/
theorem expiryIntoABadSymbolFaults : Obligations.ExpiryIntoABadSymbolFaults := by
  intro s p hslot hready hst htmr hn hrep hsx
  have hop : (s.setPos p).slotOp = .symx := by
    rw [slotOp_symbol (s.setPos p) hslot hrep]
    simp only [State.setPos_cmd, State.setPos_cmdx, State.setPos_slot, hsx]
  calc exec .tick s = plainTick s := rfl
    _ = issue (s.setPos p) := by rw [plainTick_expiry hready hst (by simp [htmr]), expire_eq, hn]
    _ = .next ((s.setPos p).raise .symbol p.slot) := issue_iff.2 (.fault hop)

/-- Settles O29. -/
theorem resetGivesTheResetValues : Obligations.ResetGivesTheResetValues := fun _ => rfl

/-- Settles O33, effect by effect. -/
theorem onlyTheListedTransitionsOfSt : Obligations.OnlyTheListedTransitionsOfSt := by
  refine ⟨⟨rfl, rfl, rfl, rfl⟩, rfl, fun s t h => ?_⟩
  rcases step_effect h with ⟨hr, rfl⟩ | ⟨hr, _, heff⟩
  · simp [hr, State.reset]
  · cases heff with
    | lengthFault hst hs => simp [hr, hst, hs]
    | prescanFault hst hs => simp [hr, hst, hs]
    | beginsRun hst hs _ _ _ ht =>
      rcases ht.st with e | ⟨e, _⟩ <;> simp [hr, hst, hs, e]
    | rest hst hs => rcases hs with hs | hs <;> simp [hr, hst, hs, imp_false]
    | countdown hst => simp [hr, hst]
    | halt hst htmr hn => simp [hr, hst, htmr, hn]
    | enters hst htmr p hn _ ht =>
      rcases ht.st with e | ⟨e, hop⟩
      · simp [hr, hst, e]
      · simp only [hr, hst, e]
        simpa [htmr, hn, State.slotOp] using hop

/-- Settles O34, effect by effect. -/
theorem commandStoreIsWrittenByTheLatchOnly : Obligations.CommandStoreIsWrittenByTheLatchOnly := by
  intro s t h hr
  cases ((step_iff hr).1 h).2 with
  | lengthFault hst hs => simp [hst, hs]
  | prescanFault hst hs => simp [hst, hs]
  | beginsRun hst hs _ _ _ ht => simpa [hst, hs] using ht.store
  | rest hst hs =>
    refine ⟨fun _ => ⟨rfl, rfl⟩, fun hidle hstart => ?_⟩
    simp [hidle, hstart] at hs
  | countdown hst => simp [hst]
  | halt hst => simp [hst]
  | enters hst _ _ _ _ ht => simpa [hst] using ht.store

/-- Settles O36, effect by effect. -/
theorem errorRegistersAreWrittenByFaultEntryOnly : Obligations.ErrorRegistersAreWrittenByFaultEntryOnly := by
  intro s t h hr
  cases ((step_iff hr).1 h).2 with
  | lengthFault hst => simp [hst]
  | prescanFault hst => simp [hst]
  | beginsRun hst _ _ _ _ ht => rcases ht.errors with ⟨e, ek, ei⟩ | ⟨e, ek⟩ <;> simp_all
  | rest => simp_all
  | countdown hst => simp [hst]
  | halt hst => simp
  | enters hst _ _ _ _ ht => rcases ht.errors with ⟨e, ek, ei⟩ | ⟨e, ek⟩ <;> simp_all

/-! TRACE is read by nothing. -/

/-- The state with another TRACE. -/
def State.withTrace (s : State) (tr : List Event) : State := { s with trace := tr }

/-- A slot operation appends at most one event, and with another TRACE has the same effect and appends the same. -/
theorem SlotEffect.withTrace {op : SlotOp} (h : SlotEffect op s t) :
    ∃ es, t.trace = s.trace ++ es ∧ es.length ≤ 1 ∧
      ∀ tr, SlotEffect op (s.withTrace tr) (t.withTrace (tr ++ es)) := by
  cases h with
  | load p hp => exact ⟨[pulseEvent p], rfl, by simp, fun tr => .load (s := s.withTrace tr) p hp⟩
  | fault hop =>
    refine ⟨[], by simp, by simp, fun tr => ?_⟩
    rw [List.append_nil]
    exact .fault (s := s.withTrace tr) hop

/-- A tick appends at most one event, and with another TRACE has the same effect and appends the same. -/
theorem TickEffect.withTrace (h : TickEffect s t) :
    ∃ es, t.trace = s.trace ++ es ∧ es.length ≤ 1 ∧
      ∀ tr, TickEffect (s.withTrace tr) (t.withTrace (tr ++ es)) := by
  have silent {u : State} (hu : u.trace = s.trace) (htr : ∀ tr, TickEffect (s.withTrace tr) (u.withTrace tr)) :
      ∃ es, u.trace = s.trace ++ es ∧ es.length ≤ 1 ∧ ∀ tr, TickEffect (s.withTrace tr) (u.withTrace (tr ++ es)) :=
    ⟨[], by simp [hu], by simp, fun tr => by simpa using htr tr⟩
  cases h with
  | lengthFault hst hs he => exact silent rfl fun tr => .lengthFault (s := s.withTrace tr) hst hs he
  | prescanFault hst hs he hfp k hk =>
    exact silent rfl fun tr => .prescanFault (s := s.withTrace tr) hst hs he hfp k hk
  | beginsRun hst hs he hx _ ht =>
    obtain ⟨es, htrace, hlen, hall⟩ := ht.withTrace
    exact ⟨es, htrace, hlen, fun tr => .beginsRun (s := s.withTrace tr) hst hs he hx _ (hall tr)⟩
  | rest hst hs => exact silent rfl fun tr => .rest (s := s.withTrace tr) hst hs
  | countdown hst htmr => exact silent rfl fun tr => .countdown (s := s.withTrace tr) hst htmr
  | halt hst htmr hn => exact silent rfl fun tr => .halt (s := s.withTrace tr) hst htmr hn
  | enters hst htmr p hn _ ht =>
    obtain ⟨es, htrace, hlen, hall⟩ := ht.withTrace
    exact ⟨es, htrace, hlen, fun tr => .enters (s := s.withTrace tr) hst htmr p hn _ (hall tr)⟩

/-- Settles O38. -/
theorem nothingReadsTrace : Obligations.NothingReadsTrace := by
  intro s t tr h
  rcases step_effect h with ⟨hr, rfl⟩ | ⟨hr, hready, heff⟩
  · exact ⟨[], step_reset (s := s.withTrace tr) hr, .inl ⟨rfl, rfl⟩⟩
  · obtain ⟨es, htrace, hlen, hall⟩ := heff.withTrace
    exact ⟨tr ++ es, step_of_tickEffect (s := s.withTrace tr) hr hready (hall tr), .inr ⟨es, htrace, rfl, hlen⟩⟩

/-! The flags and the outputs. -/

/-- Settles O39. -/
theorem flagsFollowSt : Obligations.FlagsFollowSt := by
  intro s
  cases hst : s.st <;> simp [State.busy, State.isDone, State.err, hst]

/-- A flag's port is 1 exactly where the flag is up. -/
theorem ofBool_eq_one (b : Bool) : BitVec.ofBool b = 1#1 ↔ b = true := by
  cases b <;> decide

/-- Settles O40. -/
theorem outputsShowTheRegisters : Obligations.OutputsShowTheRegisters := by
  intro s
  obtain ⟨hbusy, hdone, herr, _⟩ := flagsFollowSt s
  exact ⟨rfl, rfl, rfl, rfl, (ofBool_eq_one _).trans hbusy, (ofBool_eq_one _).trans hdone, (ofBool_eq_one _).trans herr,
    rfl, rfl, fun _ => rfl⟩

end Sys2Proof.Machine
end

section
/-! ### The events at the positions (30_encoding.md R78; 41_framing_sequencer.md R115, R116, R121) -/

namespace Sys2Proof.Machine

open Sys2Proof

/-- The operation at a symbol slot, by the class of its cell. -/
theorem decodeUop_uop_symbol (c x : CmdWord) {rep : BitVec 4} {slot : BitVec 5} (hr : rep ≠ Config.repeatCount)
    {i : SymIdx} (hi : slot.toNat = i.val) :
    decodeUop (uop c x rep slot) =
      match symClass c x i with
      | .s0 => .sym0
      | .s1 => .sym1
      | .sx => .symx := by
  have hs : slot.toNat < 24 := by omega
  rw [uop_symbol c x hr hs, decodeUop_symbol]
  obtain rfl : i = ⟨slot.toNat, hs⟩ := Fin.ext hi.symm
  rfl

theorem decodeUop_uop_trail (c x : CmdWord) {rep : BitVec 4} (hr : rep ≠ Config.repeatCount) :
    decodeUop (uop c x rep 24#5) = .trail := by
  rw [uop_trail c x hr]; rfl

theorem decodeUop_uop_gap (c x : CmdWord) {rep : BitVec 4} (hr : rep ≠ Config.repeatCount) :
    decodeUop (uop c x rep 25#5) = .gap := by
  rw [uop_gap c x hr]; rfl

theorem decodeUop_uop_endgap (c x : CmdWord) (slot : BitVec 5) :
    decodeUop (uop c x Config.repeatCount slot) = .endgap := by
  rw [uop_endgap]; rfl

/-- The UOP depends on the repetition only in that it is the end gap's or not. -/
theorem uop_rep_irrelevant (c x : CmdWord) {r r' : BitVec 4} (slot : BitVec 5) (h : r ≠ Config.repeatCount)
    (h' : r' ≠ Config.repeatCount) : uop c x r slot = uop c x r' slot := by
  unfold uop
  rw [if_neg h, if_neg h']

/-- The two events of a symbol slot are its class's pair. -/
theorem pairOf_eq_eventAt (c x : CmdWord) {rep : BitVec 4} {slot : BitVec 5} (hr : rep ≠ Config.repeatCount)
    {i : SymIdx} (hi : slot.toNat = i.val) :
    (eventAt c x ⟨rep, slot, 0#1⟩).toList ++ (eventAt c x ⟨rep, slot, 1#1⟩).toList = pairOf (symClass c x i) := by
  unfold eventAt
  rw [decodeUop_uop_symbol c x hr hi]
  cases symClass c x i <;> rfl

/-- One more position adds its event, where it has one. -/
theorem eventsUpTo_succ_toList (c x : CmdWord) (n : Nat) :
    eventsUpTo c x (n + 1) = eventsUpTo c x n ++ (eventAt c x (positionAt n)).toList := by
  unfold eventsUpTo
  rw [List.range_succ, List.filterMap_append]
  cases h : eventAt c x (positionAt n) <;> simp [h]

/-- The two positions of slot k of the first frame. -/
theorem positionAt_slot_start {k : Nat} (hk : k ≤ 25) : positionAt (2 * k) = ⟨0#4, BitVec.ofNat 5 k, 0#1⟩ := by
  have hmod : 2 * k % 51 = 2 * k := Nat.mod_eq_of_lt (by omega)
  exact (eq_positionAt (by omega) (by simp; omega) (by simp [hmod]; omega) (by simp [hmod])).symm

theorem positionAt_slot_second {k : Nat} (hk : k ≤ 24) : positionAt (2 * k + 1) = ⟨0#4, BitVec.ofNat 5 k, 1#1⟩ := by
  have hmod : (2 * k + 1) % 51 = 2 * k + 1 := Nat.mod_eq_of_lt (by omega)
  exact (eq_positionAt (by omega) (by simp; omega) (by simp [hmod]; omega) (by simp [hmod])).symm

/-- The events before slot k of the first frame are the pairs of the symbols before k. -/
theorem eventsUpTo_eq_pairsBefore (c x : CmdWord) {k : Nat} (hk : k ≤ 24) : eventsUpTo c x (2 * k) = pairsBefore c x k := by
  induction k with
  | zero => rfl
  | succ k ih =>
    have hslot : (BitVec.ofNat 5 k).toNat = (⟨k, hk⟩ : SymIdx).val := Nat.mod_eq_of_lt (by omega)
    calc eventsUpTo c x (2 * (k + 1))
        = eventsUpTo c x (2 * k) ++ ((eventAt c x (positionAt (2 * k))).toList ++
            (eventAt c x (positionAt (2 * k + 1))).toList) := by
          rw [show 2 * (k + 1) = 2 * k + 1 + 1 by omega, eventsUpTo_succ_toList, eventsUpTo_succ_toList, List.append_assoc]
      _ = pairsBefore c x k ++ pairOf (symClass c x ⟨k, hk⟩) := by
          rw [ih (by omega), positionAt_slot_start (by omega), positionAt_slot_second (by omega),
            pairOf_eq_eventAt c x (by decide) hslot]
      _ = pairsBefore c x (k + 1) := (pairsBefore_succ c x ⟨k, hk⟩).symm

/-- The first 51 positions are those of a frame. -/
theorem eventsUpTo_frame (c : CmdWord) : eventsUpTo c 0#24 51 = frame c := by
  have hr : (0#4 : BitVec 4) ≠ Config.repeatCount := by decide
  have htrail (ph : BitVec 1) : eventAt c 0#24 ⟨0#4, 24#5, ph⟩ = (pulseOf .trail ph).map pulseEvent := by
    rw [← decodeUop_uop_trail c 0#24 hr]; rfl
  have hgap : eventAt c 0#24 ⟨0#4, 25#5, 0#1⟩ = some evLSil := by
    unfold eventAt
    rw [decodeUop_uop_gap c 0#24 hr]; rfl
  have h48 : eventAt c 0#24 (positionAt 48) = some evHShort := htrail 0#1
  have h49 : eventAt c 0#24 (positionAt 49) = some evLLong := htrail 1#1
  have h50 : eventAt c 0#24 (positionAt 50) = some evLSil := hgap
  rw [eventsUpTo_succ h50, eventsUpTo_succ h49, eventsUpTo_succ h48, eventsUpTo_eq_pairsBefore c 0#24 (k := 24) le_rfl]
  simp [frame]

/-- The event at a position depends on its place in the frame only. -/
theorem eventAt_repetition (c x : CmdWord) {r j : Nat} (hr : r < 10) (hj : j < 51) :
    eventAt c x (positionAt (51 * r + j)) = eventAt c x (positionAt j) := by
  have hlt : 51 * r + j < 510 := by omega
  have hlt' : j < 510 := by omega
  have hslot : (positionAt (51 * r + j)).slot = (positionAt j).slot :=
    BitVec.eq_of_toNat_eq (by rw [positionAt_slot hlt, positionAt_slot hlt']; omega)
  have hph : (positionAt (51 * r + j)).ph = (positionAt j).ph :=
    BitVec.eq_of_toNat_eq (by rw [positionAt_ph hlt, positionAt_ph hlt']; omega)
  unfold eventAt
  rw [hslot, hph, uop_rep_irrelevant c x _ (positionAt_rep_ne hlt) (positionAt_rep_ne hlt')]

/-- One more repetition adds the events of the first. -/
theorem eventsUpTo_repetition (c x : CmdWord) {r : Nat} (hr : r < 10) :
    eventsUpTo c x (51 * r + 51) = eventsUpTo c x (51 * r) ++ eventsUpTo c x 51 := by
  unfold eventsUpTo
  rw [List.range_add, List.filterMap_append, List.filterMap_map]
  congr 1
  apply List.filterMap_congr
  intro j hj
  exact eventAt_repetition c x hr (List.mem_range.1 hj)

/-- The events of whole repetitions. -/
theorem eventsUpTo_repetitions (c : CmdWord) {r : Nat} (hr : r ≤ 10) :
    eventsUpTo c 0#24 (51 * r) = (List.replicate r (frame c)).flatten := by
  induction r with
  | zero => rfl
  | succ r ih =>
    rw [Nat.mul_succ, eventsUpTo_repetition c 0#24 (by omega), ih (by omega), eventsUpTo_frame, List.replicate_succ',
      List.flatten_append]
    simp

/-- The events of the 511 positions are the transmission (R116). -/
theorem eventsUpTo_eq_transmission (c : CmdWord) : eventsUpTo c 0#24 511 = transmission c := by
  have hlast : eventAt c 0#24 (positionAt 510) = some evLSil := by
    show Option.map pulseEvent (pulseOf (decodeUop (uop c 0#24 Config.repeatCount 25#5)) 0#1) = _
    rw [decodeUop_uop_endgap]
    rfl
  rw [eventsUpTo_succ hlast, eventsUpTo_repetitions c (r := 10) le_rfl]
  rfl

/-- Every valid symbol has two events. -/
theorem pairsBefore_length (c x : CmdWord) {k : Nat} (hk : k ≤ 24)
    (hx : ∀ i : SymIdx, i.val < k → x.getLsbD (23 - i.val) = false) : (pairsBefore c x k).length = 2 * k := by
  induction k with
  | zero => rfl
  | succ k ih =>
    have hvalid : symClass c x ⟨k, hk⟩ ≠ .sx := by
      rw [ne_eq, symClass_sx, hx ⟨k, hk⟩ (by simp)]
      decide
    have hpair : (pairOf (symClass c x ⟨k, hk⟩)).length = 2 := by
      cases hc : symClass c x ⟨k, hk⟩ <;> simp_all [pairOf]
    rw [pairsBefore_succ c x ⟨k, hk⟩, List.length_append, ih (by omega) fun i hi => hx i (by omega), hpair]
    rfl

/-- A frame has 51 events. -/
theorem frame_length (c : CmdWord) : (frame c).length = 51 := by
  simp [frame, pairsBefore_length c 0#24 (k := 24) le_rfl]

/-- A transmission has 511 events. -/
theorem transmission_length (c : CmdWord) : (transmission c).length = 511 := by
  simp [transmission, frame_length]

/-- Of the legal positions those in slot 25 are the gaps'. -/
theorem gap_or_endgap_iff (c x : CmdWord) {p : Position} (hl : positionLegal p = true) :
    (decodeUop (uop c x p.rep p.slot) = .gap ∨ decodeUop (uop c x p.rep p.slot) = .endgap) ↔ p.slot.toNat = 25 := by
  obtain ⟨rep, slot, ph⟩ := p
  rcases (positionLegal_iff _).1 hl with ⟨hr, hs⟩ | hend
  · have hne := rep_ne_of_lt hr
    rcases Nat.lt_trichotomy slot.toNat 24 with hlt | heq | hgt
    · rw [decodeUop_uop_symbol c x hne (i := ⟨slot.toNat, hlt⟩) rfl]
      have hslot : slot.toNat ≠ 25 := by omega
      cases symClass c x ⟨slot.toNat, hlt⟩ <;> simp [hslot]
    · obtain rfl : slot = 24#5 := BitVec.eq_of_toNat_eq heq
      simp [decodeUop_uop_trail c x hne]
    · obtain rfl : slot = 25#5 := BitVec.eq_of_toNat_eq (by simp at hs ⊢; omega)
      simp [decodeUop_uop_gap c x hne]
  · cases hend
    exact iff_of_true (.inr (decodeUop_uop_endgap c x _)) rfl

/-- The operation at a legal position, if it is not SYMX, has an event there, that of its pulse code. -/
theorem eventAt_of_issuedPulse {s : State} {p : PulseCode} (hl : positionLegal s.pos = true)
    (hp : issuedPulse s.slotOp s.ph = some p) : eventAt s.cmd s.cmdx s.pos = some (pulseEvent p) := by
  obtain ⟨_, _, hph, _⟩ := positionLegal_bounds hl
  have hgap (h : s.slotOp = .gap ∨ s.slotOp = .endgap) : s.ph = 0#1 := hph ((gap_or_endgap_iff s.cmd s.cmdx hl).1 h)
  have hpulse : pulseOf s.slotOp s.ph = some p := by
    cases hop : s.slotOp <;> simp_all [issuedPulse, pulseOf]
  show (pulseOf s.slotOp s.ph).map pulseEvent = _
  rw [hpulse]
  rfl

/-- The pulse codes' durations are positive and none is longer than RADIO_SILENCE. -/
theorem pulseEvent_dur (p : PulseCode) : 1 ≤ (pulseEvent p).dur.toNat ∧ (pulseEvent p).dur.toNat ≤ 9920 := by
  cases p <;> decide

/-- An event at a position is that of the pulse code of its operation and phase. -/
theorem eventAt_eq_some {c x : CmdWord} {p : Position} {ev : Event} (h : eventAt c x p = some ev) :
    ∃ q, pulseOf (decodeUop (uop c x p.rep p.slot)) p.ph = some q ∧ pulseEvent q = ev := by
  simpa [eventAt] using h

/-- The grammar table has HIGH in phase 0 only, and never for a gap. -/
theorem pulseOf_high {op : SlotOp} {ph : BitVec 1} {p : PulseCode} (h : pulseOf op ph = some p)
    (hp : p.level = .high) : ph = 0#1 ∧ ¬ (op = .gap ∨ op = .endgap) := by
  rcases phase_cases ph with rfl | rfl
  · refine ⟨rfl, ?_⟩
    rintro (rfl | rfl) <;> cases h <;> cases hp
  · cases op <;> cases h <;> cases hp

/-- A HIGH event stands in the first phase of a symbol slot or of the trailer. -/
theorem eventAt_high {c x : CmdWord} {p : Position} {ev : Event} (hl : positionLegal p = true)
    (h : eventAt c x p = some ev) (hev : ev.level = .high) : p.ph = 0#1 ∧ p.slot.toNat ≤ 24 := by
  obtain ⟨q, hq, rfl⟩ := eventAt_eq_some h
  obtain ⟨hph, hop⟩ := pulseOf_high hq hev
  rw [gap_or_endgap_iff c x hl] at hop
  have hslot := (positionLegal_bounds hl).1
  exact ⟨hph, by omega⟩

end Sys2Proof.Machine
end

section
/-! ### The invariant of the machine (10_state.md R38) -/

namespace Sys2Proof.Machine

open Sys2Proof

variable {s t : State}

/-- What the invariant says in RUN. -/
structure RunInv (s : State) : Prop where
  legal : positionLegal s.pos = true
  wire : ∃ ev, eventAt s.cmd s.cmdx s.pos = some ev ∧ s.onWire ev
  errkind : s.errkind = .none
  erridx : s.erridx = 0#5
  met : s.metValid
  prescan : Config.faultPrefix = .prescan → s.cmdx = 0#24
  trace : s.trace = eventsUpTo s.cmd s.cmdx (positionIndex s.pos + 1)

theorem inv_run (hst : s.st = .run) : Inv s ↔ s.resetSeen = true ∧ RunInv s := by
  simp only [Inv, hst]
  refine and_congr_right fun _ => ⟨?_, ?_⟩
  · rintro ⟨hl, hw, hk, hi, hm, hp, ht⟩
    exact ⟨hl, hw, hk, hi, hm, hp, ht⟩
  · rintro ⟨hl, hw, hk, hi, hm, hp, ht⟩
    exact ⟨hl, hw, hk, hi, hm, hp, ht⟩

/-- The invariant says nothing of the samples to come. -/
theorem inv_withInputs (ins : List Inputs) : Inv (s.withInputs ins) ↔ Inv s := Iff.rfl

theorem inv_consume : Inv s.consume ↔ Inv s := Iff.rfl

/-- At a legal position the symbols met are those whose slots the event numbers have reached. -/
theorem met_iff {p : Position} (hl : positionLegal p = true) (i : SymIdx) :
    (i.val ≤ p.slot.toNat ∨ 0 < p.rep.toNat) ↔ 2 * i.val ≤ positionIndex p := by
  rcases (positionLegal_iff p).1 hl with ⟨hr, _⟩ | rfl
  · rw [positionIndex_of_rep_ne (rep_ne_of_lt hr)]
    have hph := p.ph.isLt
    omega
  · refine iff_of_true (.inr (by decide)) ?_
    have hidx : positionIndex ⟨10#4, 25#5, 0#1⟩ = 510 := rfl
    omega

/-- At the number of the first event of slot k the position is (0, k, 0). -/
theorem eq_slot_start {p : Position} (hl : positionLegal p = true) {k : Nat} (hk : k ≤ 25)
    (h : positionIndex p = 2 * k) : p = ⟨0#4, BitVec.ofNat 5 k, 0#1⟩ := by
  rw [← (positionAt_positionIndex hl).2, h, positionAt_slot_start hk]

/-- At the first event of a symbol's slot with the mark set the operation is SYMX. -/
theorem symx_of_mark (hl : positionLegal s.pos = true) {i : SymIdx} (h : positionIndex s.pos = 2 * i.val)
    (hmark : s.cmdx.getLsbD (23 - i.val) = true) : s.slotOp = .symx := by
  have hpos := eq_slot_start hl (by omega) h
  have hrep : s.rep = 0#4 := congrArg Position.rep hpos
  have hslot : s.slot = BitVec.ofNat 5 i.val := congrArg Position.slot hpos
  unfold State.slotOp
  rw [decodeUop_uop_symbol s.cmd s.cmdx (by rw [hrep]; decide) (i := i) (by simp [hslot]; omega),
    (symClass_sx _ _ _).2 hmark]

/-- Before the operation at a new position is issued in a run, by START or expiry (42_pulse_timer.md R131): the position is
written, every symbol whose slot was entered earlier is valid, and TRACE holds the events of the earlier positions. -/
structure Entering (s : State) : Prop where
  resetSeen : s.resetSeen = true
  st : s.st = .run
  legal : positionLegal s.pos = true
  errkind : s.errkind = .none
  erridx : s.erridx = 0#5
  met : ∀ i : SymIdx, 2 * i.val < positionIndex s.pos → s.cmdx.getLsbD (23 - i.val) = false
  prescan : Config.faultPrefix = .prescan → s.cmdx = 0#24
  trace : s.trace = eventsUpTo s.cmd s.cmdx (positionIndex s.pos)

/-- A SYMX that a run enters stands at the first phase of the first bad symbol's slot, in the first repetition. -/
theorem Entering.symx (h : Entering s) (hop : s.slotOp = .symx) :
    ∃ k : SymIdx, firstSx s.cmdx = some k ∧ s.pos = ⟨0#4, BitVec.ofNat 5 k.val, 0#1⟩ ∧
      positionIndex s.pos = 2 * k.val := by
  obtain ⟨hrep, hslot, hsx⟩ := uop_symx hop
  have hmark : s.cmdx.getLsbD (23 - s.slot.toNat) = true := (symClass_sx _ _ _).1 hsx
  have hidx : positionIndex s.pos = 51 * s.rep.toNat + 2 * s.slot.toNat + s.ph.toNat := positionIndex_of_rep_ne hrep
  have hfirst : positionIndex s.pos = 2 * s.slot.toNat := by
    by_contra hne
    have hvalid := h.met ⟨s.slot.toNat, hslot⟩ (by simp only; omega)
    simp [hmark] at hvalid
  have hpos := eq_slot_start h.legal (by omega) hfirst
  exact ⟨⟨s.slot.toNat, hslot⟩, firstSx_of hmark fun j hj => h.met j (by simp only at hj; omega), hpos, hfirst⟩

/-- The event loaded at the position a run enters leaves the invariant. -/
theorem Entering.load (h : Entering s) {p : PulseCode} (hp : issuedPulse s.slotOp s.ph = some p) :
    Inv (s.emit p.level (rom p.dsel)) := by
  have hev := eventAt_of_issuedPulse h.legal hp
  have hat : eventAt s.cmd s.cmdx (positionAt (positionIndex s.pos)) = some (pulseEvent p) := by
    rw [(positionAt_positionIndex h.legal).2, hev]
  have hop : s.slotOp ≠ .symx := by
    intro hop
    rw [hop] at hp
    cases hp
  refine (inv_run (s := s.emit p.level (rom p.dsel)) h.st).2 ⟨h.resetSeen, h.legal,
    ⟨_, hev, rfl, (pulseEvent_dur p).1, le_rfl, iff_of_true rfl rfl⟩, h.errkind, h.erridx, fun i hi => ?_, h.prescan, ?_⟩
  · rcases Nat.lt_or_eq_of_le ((met_iff h.legal i).1 hi) with hlt | heq
    · exact h.met i hlt
    · exact Bool.eq_false_iff.2 fun hmark => hop (symx_of_mark h.legal heq.symm hmark)
  · show s.trace ++ [pulseEvent p] = eventsUpTo s.cmd s.cmdx (positionIndex s.pos + 1)
    rw [eventsUpTo_succ hat, h.trace]

/-- The fault entry at the position a run enters leaves the invariant. -/
theorem Entering.fault (h : Entering s) (hop : s.slotOp = .symx) : Inv (s.raise .symbol s.slot) := by
  obtain ⟨k, hk, hpos, hidx⟩ := h.symx hop
  have hslot : s.slot = BitVec.ofNat 5 k.val := congrArg Position.slot hpos
  refine ⟨h.resetSeen, ⟨rfl, rfl, rfl⟩, .inr ⟨rfl, k, hk, hslot, ?_⟩⟩
  cases hfp : Config.faultPrefix with
  | prescan =>
    rw [h.prescan hfp, (firstSx_zero 0#24).2 rfl] at hk
    cases hk
  | lazy =>
    refine ⟨hpos, ?_⟩
    show s.trace = pairsBefore s.cmd s.cmdx k.val
    rw [h.trace, hidx, eventsUpTo_eq_pairsBefore _ _ (by omega)]

/-- What a run does on entering a position leaves the invariant. -/
theorem Entering.inv (h : Entering s) (ht : SlotEffect s.slotOp s t) : Inv t := by
  cases ht with
  | load p hp => exact h.load hp
  | fault hop => exact h.fault hop

/-- An accepted START that begins a run enters the first position. -/
theorem entering_started (h : Inv s) (hst : s.st = .idle)
    (hx : firstSx s.ports.cmdx_i = none ∨ Config.faultPrefix = .lazy) : Entering s.started := by
  simp only [Inv, hst] at h
  obtain ⟨hseen, _, _, hk, hi, _, _, htrace⟩ := h
  have hidx : positionIndex s.started.pos = 0 := rfl
  refine ⟨hseen, rfl, positionLegal_positionAt (j := 0) (by omega), hk, hi, fun i hi => by omega, fun hfp => ?_, htrace⟩
  rcases hx with hx | hx
  · exact (firstSx_zero _).1 hx
  · rw [hx] at hfp
    cases hfp

/-- An expiry with a next position enters it. -/
theorem entering_next (h : Inv s) (hst : s.st = .run) {p : Position} (hn : nextPosition s.pos = some p) :
    Entering (s.setPos p) := by
  obtain ⟨hseen, hrun⟩ := (inv_run hst).1 h
  obtain ⟨hlegal, hidx⟩ := positionIndex_next hrun.legal hn
  refine ⟨hseen, hst, hlegal, hrun.errkind, hrun.erridx, fun i hi => ?_, hrun.prescan, ?_⟩
  · rw [State.setPos_pos, hidx] at hi
    exact hrun.met i ((met_iff hrun.legal i).2 (by omega))
  · show s.trace = eventsUpTo s.cmd s.cmdx (positionIndex p)
    rw [hidx, hrun.trace]

/-- Countdown keeps the invariant. -/
theorem inv_countdown (h : Inv s) (hst : s.st = .run) (htmr : 1 < s.tmr.toNat) : Inv s.countdown := by
  obtain ⟨hseen, hrun⟩ := (inv_run hst).1 h
  obtain ⟨ev, hev, hlevel, _, hle, _⟩ := hrun.wire
  have hc : s.countdown.tmr.toNat = s.tmr.toNat - 1 := countdown_toNat (by omega)
  have hne : s.countdown.tmr ≠ ev.dur := by
    intro he
    rw [he] at hc
    omega
  exact (inv_run (s := s.countdown) hst).2 ⟨hseen, hrun.legal, ⟨ev, hev, hlevel, by omega, by omega, by simpa using hne⟩,
    hrun.errkind, hrun.erridx, hrun.met, hrun.prescan, hrun.trace⟩

/-- A halt leaves the invariant: the symbols are all met, so the events of the 511 positions are the transmission. -/
theorem inv_halt (h : Inv s) (hst : s.st = .run) (hn : nextPosition s.pos = none) : Inv s.halt := by
  obtain ⟨hseen, hrun⟩ := (inv_run hst).1 h
  have hpos := nextPosition_none hrun.legal hn
  have hidx : positionIndex s.pos = 510 := by rw [hpos]; rfl
  have hx : s.cmdx = 0#24 :=
    (firstSx_zero _).1 ((firstSx_none _).2 fun i => hrun.met i ((met_iff hrun.legal i).2 (by omega)))
  refine ⟨hseen, hpos, ⟨rfl, rfl, rfl⟩, hrun.errkind, hrun.erridx, hx, ?_⟩
  show s.trace = transmission s.cmd
  rw [hrun.trace, hidx, hx, eventsUpTo_eq_transmission]

/-- The fault entries of an accepted START leave the invariant. -/
theorem inv_lengthFault (h : Inv s) (hst : s.st = .idle) (c x : CmdWord) : Inv ((s.latch c x).raise .length 0#5) := by
  simp only [Inv, hst] at h
  obtain ⟨hseen, hpos, _, _, _, _, _, htrace⟩ := h
  exact ⟨hseen, ⟨rfl, rfl, rfl⟩, .inl ⟨rfl, rfl, hpos, htrace⟩⟩

theorem inv_prescanFault (h : Inv s) (hst : s.st = .idle) (hfp : Config.faultPrefix = .prescan) (c : CmdWord)
    {x : CmdWord} {k : SymIdx} (hk : firstSx x = some k) :
    Inv ((s.latch c x).raise .symbol (BitVec.ofNat 5 k.val)) := by
  simp only [Inv, hst] at h
  obtain ⟨hseen, hpos, _, _, _, _, _, htrace⟩ := h
  refine ⟨hseen, ⟨rfl, rfl, rfl⟩, .inr ⟨rfl, k, hk, rfl, ?_⟩⟩
  rw [hfp]
  exact ⟨hpos, htrace⟩

/-- Every effect of a tick keeps the invariant. -/
theorem TickEffect.inv (h : Inv s) (heff : TickEffect s t) : Inv t := by
  cases heff with
  | lengthFault hst => exact inv_lengthFault (s := s.consume) h hst _ _
  | prescanFault hst _ _ hfp k hk => exact inv_prescanFault (s := s.consume) h hst hfp _ hk
  | beginsRun hst _ _ hx _ ht => exact (entering_started h hst hx).inv ht
  | rest => exact h
  | countdown hst htmr => exact inv_countdown (s := s.consume) h hst htmr
  | halt hst _ hn => exact inv_halt (s := s.consume) h hst hn
  | enters hst _ p hn _ ht => exact (entering_next (s := s.consume) h hst hn).inv ht

/-- Settles O41. -/
theorem resetMeetsTheInvariant : Obligations.ResetMeetsTheInvariant :=
  ⟨rfl, rfl, ⟨rfl, rfl, rfl⟩, rfl, rfl, rfl, rfl, rfl⟩

/-- Settles O42: a reset gives the reset state with other samples, and every effect of a tick keeps the invariant. -/
theorem everyStepKeepsTheInvariant : Obligations.EveryStepKeepsTheInvariant := by
  intro s t h hstep
  rcases step_effect hstep with ⟨_, rfl⟩ | ⟨_, _, heff⟩
  · exact (inv_withInputs _).2 resetMeetsTheInvariant
  · exact heff.inv h

/-- Every reachable state meets the invariant. -/
theorem inv_of_reachable (h : Reachable s) : Inv s :=
  reachable_of_invariant (fun ins => (inv_withInputs ins).2 resetMeetsTheInvariant) everyStepKeepsTheInvariant h

/-! The rows of the table of R38. -/

/-- The invariant gives the IDLE row. -/
theorem idleRow_of_inv (h : Inv s) (hst : s.st = .idle) : idleRow s := by
  simp only [Inv, hst] at h
  obtain ⟨_, hpos, ⟨htmr, hlevel, hstb⟩, hrest⟩ := h
  exact ⟨hpos, htmr, hlevel, hstb, hrest⟩

/-- The invariant gives the RUN row. -/
theorem runRow_of_inv (h : Inv s) (hst : s.st = .run) : runRow s := by
  obtain ⟨_, hrun⟩ := (inv_run hst).1 h
  obtain ⟨ev, hev, hlevel, hpos, hle, hstb⟩ := hrun.wire
  obtain ⟨hslot, hrep, hph, hend⟩ := positionLegal_bounds hrun.legal
  have hdur : ev.dur.toNat ≤ 9920 := by
    obtain ⟨q, _, rfl⟩ := eventAt_eq_some hev
    exact (pulseEvent_dur q).2
  have hlast : s.trace.getLast? = some ev := by
    rw [hrun.trace, eventsUpTo_succ (ev := ev) (by rw [(positionAt_positionIndex hrun.legal).2, hev]),
      List.getLast?_concat]
  refine ⟨hpos, hle.trans hdur, hrep, hslot, fun h1 => ?_, fun hr => (hend hr).1,
    ⟨ev, hev, hlevel, hle, hstb.1, hlast⟩, fun hhigh => eventAt_high hrun.legal hev (hlevel ▸ hhigh), hrun.errkind,
    fun i hi hsx => ?_⟩
  · rw [State.pos_slot, State.pos_ph, h1] at hph
    rw [State.pos_slot] at hslot
    have : s.slot.toNat ≠ 25 := fun he => absurd (hph he) (by decide)
    omega
  · have hvalid := hrun.met i (by omega)
    simp [(symClass_sx _ _ _).1 hsx] at hvalid

/-- The invariant gives the DONE row. -/
theorem doneRow_of_inv (h : Inv s) (hst : s.st = .done) : doneRow s := by
  simp only [Inv, hst] at h
  obtain ⟨_, hpos, ⟨htmr, hlevel, hstb⟩, hk, _, hx, htrace⟩ := h
  exact ⟨hpos, htmr, hlevel, hstb, hk, hx, htrace, htrace ▸ transmission_length s.cmd⟩

/-- The FAULT row, for a fault at the slot k of the first repetition with the valid symbols before it issued. -/
theorem faultRow_at {k : Nat} (hk : k ≤ 23) (hrest : s.atRest) (herr : s.errkind = .length ∨ s.errkind = .symbol)
    (hpos : s.pos = ⟨0#4, BitVec.ofNat 5 k, 0#1⟩) (htrace : s.trace = pairsBefore s.cmd s.cmdx k)
    (hvalid : ∀ i : SymIdx, i.val < k → s.cmdx.getLsbD (23 - i.val) = false) (hlength : s.errkind = .length → k = 0)
    (hprescan : Config.faultPrefix = .prescan → k = 0) (hlazy : Config.faultPrefix = .lazy → k = s.erridx.toNat) :
    faultRow s := by
  obtain ⟨htmr, hlevel, hstb⟩ := hrest
  have hslot : s.slot = BitVec.ofNat 5 k := congrArg Position.slot hpos
  exact ⟨htmr, hlevel, hstb, herr, congrArg Position.rep hpos, congrArg Position.ph hpos, k, hk, by simp [hslot]; omega,
    htrace, htrace ▸ pairsBefore_length s.cmd s.cmdx (by omega) hvalid, hlength, hprescan, hlazy⟩

/-- The invariant gives the FAULT row: k = 0 for a fault at START, else the first bad symbol. -/
theorem faultRow_of_inv (h : Inv s) (hst : s.st = .fault) : faultRow s := by
  simp only [Inv, hst] at h
  obtain ⟨_, hrest, ⟨hk, hi, hpos, htrace⟩ | ⟨hk, k, hfirst, hi, hcause⟩⟩ := h
  · exact faultRow_at (k := 0) (by omega) hrest (.inl hk) hpos htrace (by simp) (fun _ => rfl) (fun _ => rfl) (by simp [hi])
  · cases hfp : Config.faultPrefix with
    | prescan =>
      rw [hfp] at hcause
      obtain ⟨hpos, htrace⟩ := hcause
      exact faultRow_at (k := 0) (by omega) hrest (.inr hk) hpos htrace (by simp) (fun _ => rfl) (fun _ => rfl)
        (by simp [hfp])
    | lazy =>
      rw [hfp] at hcause
      obtain ⟨hpos, htrace⟩ := hcause
      exact faultRow_at (k := k.val) (by omega) hrest (.inr hk) hpos htrace (firstSx_least hfirst) (by simp [hk])
        (by simp [hfp]) fun _ => by simp [hi]; omega

/-- Outside a run the output is at rest. -/
theorem atRest_of_inv (h : Inv s) (hst : s.st ≠ .run) : s.atRest := by
  obtain ⟨_, h⟩ := h
  cases hs : s.st <;> simp only [hs] at h
  case idle =>
    obtain ⟨_, hrest, _⟩ := h
    exact hrest
  case run => exact absurd hs hst
  case done =>
    obtain ⟨_, hrest, _⟩ := h
    exact hrest
  case fault =>
    obtain ⟨hrest, _⟩ := h
    exact hrest

/-- Settles O43: the invariant gives each row, and that the output is at rest outside RUN the line under the table. -/
theorem reachableStatesMeetTheTable : Obligations.ReachableStatesMeetTheTable := by
  intro s hs
  have h := inv_of_reachable hs
  refine ⟨?_, fun hhigh => ?_, fun hstb => ?_⟩
  · cases hst : s.st with
    | idle => exact idleRow_of_inv h hst
    | run => exact runRow_of_inv h hst
    | done => exact doneRow_of_inv h hst
    | fault => exact faultRow_of_inv h hst
  · by_contra hst
    obtain ⟨_, hlow, _⟩ := atRest_of_inv h hst
    simp [hhigh] at hlow
  · by_contra hst
    obtain ⟨_, _, hdown⟩ := atRest_of_inv h hst
    simp [hstb] at hdown

/-- Settles O46: only an event load raises STB, and outside a run STB is down by the invariant. -/
theorem strobeMarksEveryEvent : Obligations.StrobeMarksEveryEvent := by
  intro s t hs h hr
  cases ((step_iff hr).1 h).2 with
  | lengthFault => simp
  | prescanFault => simp
  | beginsRun _ _ _ _ _ ht => simpa using ht.trace
  | rest hst =>
    obtain ⟨_, _, hdown⟩ := atRest_of_inv (inv_of_reachable hs) hst
    simp [hdown]
  | countdown => simp
  | halt => simp
  | enters _ _ _ _ _ ht => simpa using ht.trace

end Sys2Proof.Machine
end

section
/-! ### The command store and the constants ROM (20_memory.md R51, R52, R55, R57) -/

namespace Sys2Proof.Machine

open Sys2Proof

/-! The cell of a symbol, its class, and the ROM words. -/

/-- A symbol is of class S0 exactly where both its register bits are 0. -/
theorem symClass_s0 (c x : CmdWord) (i : SymIdx) :
    symClass c x i = .s0 ↔ x.getLsbD (23 - i.val) = false ∧ c.getLsbD (23 - i.val) = false := by
  rw [symClass_eq]
  cases x.getLsbD (23 - i.val) <;> cases c.getLsbD (23 - i.val) <;> simp

/-- A symbol is of class S1 exactly where its mark is 0 and its value 1. -/
theorem symClass_s1 (c x : CmdWord) (i : SymIdx) :
    symClass c x i = .s1 ↔ x.getLsbD (23 - i.val) = false ∧ c.getLsbD (23 - i.val) = true := by
  rw [symClass_eq]
  cases x.getLsbD (23 - i.val) <;> cases c.getLsbD (23 - i.val) <;> simp

/-- Settles O5: of a symbol's UOP the class of its cell is decoded and nothing else. -/
theorem symbolCellAndClass : Obligations.SymbolCellAndClass := by
  refine ⟨fun c x i => ⟨rfl, symClass_s0 c x i, symClass_s1 c x i, symClass_sx c x i⟩, fun a b hab => ?_, by decide,
    by decide⟩
  rw [decodeUop_symbol, decodeUop_symbol, hab]

/-- Settles O7. -/
theorem romWordsAndTheReservedAddress : Obligations.RomWordsAndTheReservedAddress :=
  ⟨rfl, rfl, rfl, rfl⟩

/-! Every repetition reads the same cells. -/

/-- With no symbol marked no position decodes to SYMX. -/
theorem decodeUop_uop_ne_symx (c : CmdWord) (rep : BitVec 4) (slot : BitVec 5) :
    decodeUop (uop c 0#24 rep slot) ≠ .symx := by
  intro h
  obtain ⟨_, _, hsx⟩ := uop_symx h
  simp [symClass_sx] at hsx

/-- A legal position whose operation is not SYMX has an event. -/
theorem eventAt_isSome {c x : CmdWord} {p : Position} (hl : positionLegal p = true)
    (hop : decodeUop (uop c x p.rep p.slot) ≠ .symx) : ∃ ev, eventAt c x p = some ev := by
  obtain ⟨q, hq⟩ := issuedPulse_isSome p.ph hop
  exact ⟨pulseEvent q, eventAt_of_issuedPulse (s := (State.reset.latch c x).setPos p) hl hq⟩

/-- Settles O21: event j of the run is event j % 51 of repetition j / 51. -/
theorem repetitionsAreAlike : Obligations.RepetitionsAreAlike := by
  intro c x j hj
  constructor
  · have h := eventAt_repetition c x (r := j / 51) (j := j % 51) (by omega) (by omega)
    rwa [Nat.div_add_mod] at h
  · rintro rfl
    exact eventAt_isSome (positionLegal_positionAt (by omega)) (decodeUop_uop_ne_symx c _ _)

/-! The value bit under a mark. -/

section

variable {c c' x : CmdWord}
  (h : ∀ i : SymIdx, x.getLsbD (23 - i.val) = false → c.getLsbD (23 - i.val) = c'.getLsbD (23 - i.val))

include h

/-- Commands that agree where there is no mark have the same classes. -/
theorem symClass_congr (i : SymIdx) : symClass c x i = symClass c' x i := by
  rw [symClass_eq, symClass_eq]
  cases hx : x.getLsbD (23 - i.val) with
  | true => rfl
  | false => rw [h i hx]

/-- Such commands have the same pairs. -/
theorem pairsBefore_congr (k : Nat) : pairsBefore c x k = pairsBefore c' x k := by
  unfold pairsBefore
  simp only [symClass_congr h]

end

/-- Settles O54: of the command the event lists read the classes only. -/
theorem valueBitsUnderMarksAreIgnored : Obligations.ValueBitsUnderMarksAreIgnored := by
  intro fp c c' x e h
  unfold encodeCommand
  cases hx : firstSx x with
  | none =>
    obtain rfl := (firstSx_zero x).1 hx
    have hframe : frame c = frame c' := by simp only [frame, pairsBefore_congr h]
    simp only [transmission, hframe]
  | some k => simp only [pairsBefore_congr h]

end Sys2Proof.Machine
end

section
/-! ### The encodings (30_encoding.md): reserved codes, UOP and HOSTOP words, pulse codes, the grammar table -/

namespace Sys2Proof.Machine

open Sys2Proof

/-! Reserved codes (R82). -/

/-- With a reserved code held a step without a reset is refused: both START and TICK are guarded. -/
theorem step_reserved {s : State} (hseen : s.resetSeen = true) (hheld : s.reservedHeld = true)
    (hr : s.ports.rst_i = false) : step s = .refused .reservedCode := by
  rcases step_cases s with ⟨hrst, _⟩ | ⟨_, _, _, hstart⟩ | ⟨_, _, hplain⟩
  · simp [hr] at hrst
  · exact hstart.trans (guarded_reserved (s := s.consume) hseen hheld _)
  · exact hplain.trans (guarded_reserved (s := s.consume) hseen hheld _)

/-- A position past the slots or the repetitions, in a second phase of slot 25, or of repetition 10 outside slot 25, is none of
the 511. -/
theorem positionLegal_eq_false {p : Position}
    (h : 25 < p.slot.toNat ∨ 10 < p.rep.toNat ∨ (p.slot = 25#5 ∧ p.ph = 1#1) ∨ (p.rep = 10#4 ∧ p.slot ≠ 25#5)) :
    positionLegal p = false := by
  rw [Bool.eq_false_iff]
  intro hl
  obtain ⟨hslot, hrep, hph, hend⟩ := positionLegal_bounds hl
  rcases h with h | h | ⟨h25, h1⟩ | ⟨h10, hne⟩
  · omega
  · omega
  · rw [hph (by rw [h25]; rfl)] at h1
    exact absurd h1 (by decide)
  · exact hne (hend h10).1

/-- Settles O32: each of the listed codes is one that the guard looks for. -/
theorem reservedCodesAreRefused : Obligations.ReservedCodesAreRefused := by
  intro s hseen h
  have hheld : s.reservedHeld = true := by
    unfold State.reservedHeld
    rcases h with h | h
    · simp [h]
    · simp [positionLegal_eq_false (p := s.pos) h]
  exact ⟨step_reserved hseen hheld, step_reset⟩

/-! UOP words (R73, R74, R83). -/

/-- A word decodes to a row's operation exactly where it has the row's pattern. -/
theorem decodeUop_eq_iff (w : BitVec 4) : ∀ r ∈ uopTable, decodeUop w = r.op ↔ w &&& r.mask = r.value := by
  revert w; decide

/-- The six patterns are disjoint and together cover every word. -/
theorem one_row_selects (w : BitVec 4) : (uopTable.filter fun r => r.selects w).length = 1 := by
  revert w; decide

/-- The words the sequencer forms: those of the four cells, and the canonical ones of TRAIL, GAP and ENDGAP. -/
theorem uop_mem_formed (c x : CmdWord) (rep : BitVec 4) (slot : BitVec 5) :
    uop c x rep slot ∈ [0x0#4, 0x1#4, 0x2#4, 0x3#4, 0x4#4, 0x8#4, 0xC#4] := by
  have hcell : ∀ cell : BitVec 2, 0b00#2 ++ cell ∈ [0x0#4, 0x1#4, 0x2#4, 0x3#4, 0x4#4, 0x8#4, 0xC#4] := by decide
  unfold uop
  split_ifs
  · decide
  · exact hcell _
  · decide
  · decide

/-- Settles O1, row by row. -/
theorem uopWordSelectsItsRow : Obligations.UopWordSelectsItsRow := fun w =>
  have hrow := decodeUop_eq_iff w
  ⟨hrow ⟨.sym0, 0x0#4, 0xF#4⟩ (by decide), hrow ⟨.sym1, 0x1#4, 0xF#4⟩ (by decide), hrow ⟨.symx, 0x2#4, 0xE#4⟩ (by decide),
    hrow ⟨.trail, 0x4#4, 0xC#4⟩ (by decide), hrow ⟨.gap, 0x8#4, 0xC#4⟩ (by decide),
    hrow ⟨.endgap, 0xC#4, 0xC#4⟩ (by decide), one_row_selects w, uop_mem_formed⟩

/-- Settles O6. -/
theorem uopAtPosition : Obligations.UopAtPosition := by
  intro c x rep slot
  refine ⟨?_, fun hs hr => uop_symbol c x hr hs, ?_, ?_⟩
  · rintro rfl
    exact uop_endgap c x slot
  · rintro hr rfl
    exact uop_trail c x hr
  · rintro hr rfl
    exact uop_gap c x hr

/-! HOSTOP words (R81). -/

/-- A start request outside IDLE is a TICK. -/
theorem selectHostop_start_ignored {st : RunState} (h : st ≠ .idle) (c x : CmdWord) (e : Bool) :
    selectHostop st false true c x e = .tick := by
  cases st with
  | idle => exact absurd rfl h
  | run | done | fault => rfl

/-- The word on the ports selects what the ports do. -/
theorem decodeHostop_hostopWord (st : RunState) (p : Inputs) :
    decodeHostop st (hostopWord p) p.cmd_i p.cmdx_i p.lenerr_i = hostop st p := by
  have h1 : (hostopWord p).getLsbD 1 = p.rst_i := by
    unfold hostopWord
    cases p.rst_i <;> cases p.start_i <;> rfl
  have h0 : (hostopWord p).getLsbD 0 = p.start_i := by
    unfold hostopWord
    cases p.rst_i <;> cases p.start_i <;> rfl
  unfold decodeHostop hostop
  rw [h1, h0]

/-- The three patterns of a HOSTOP word, by its two bits. -/
theorem hostop_patterns (w : BitVec 2) :
    (w &&& 0x2#2 = 0x2#2 ↔ w.getLsbD 1 = true) ∧
      (w &&& 0x3#2 = 0x1#2 ↔ w.getLsbD 1 = false ∧ w.getLsbD 0 = true) ∧
      (w &&& 0x3#2 = 0x0#2 ↔ w.getLsbD 1 = false ∧ w.getLsbD 0 = false) := by
  revert w; decide

/-- The rows of the HOSTOP table, of the two request bits however they are given. -/
theorem selectHostop_rows (st : RunState) (rst start : Bool) (c x : CmdWord) (e : Bool) :
    (rst = true → selectHostop st rst start c x e = .reset) ∧
      (rst = false → start = true → st = .idle → selectHostop st rst start c x e = .start c x e) ∧
      (rst = false → start = true → st ≠ .idle → selectHostop st rst start c x e = .tick) ∧
      (rst = false → start = false → selectHostop st rst start c x e = .tick) := by
  refine ⟨?_, ?_, ?_, ?_⟩
  · rintro rfl; rfl
  · rintro rfl rfl rfl; rfl
  · rintro rfl rfl hst
    exact selectHostop_start_ignored hst c x e
  · rintro rfl rfl; rfl

/-- Settles O2: on the ports and in a word the two request bits select by one table. -/
theorem hostopSelectsItsOperation : Obligations.HostopSelectsItsOperation := by
  intro st p
  obtain ⟨hreset, hstart, hignored, hquiet⟩ := selectHostop_rows st p.rst_i p.start_i p.cmd_i p.cmdx_i p.lenerr_i
  refine ⟨hreset, hstart, hignored, hquiet, decodeHostop_hostopWord st p, fun w => ?_⟩
  obtain ⟨hreset, hstart, hignored, hquiet⟩ :=
    selectHostop_rows st (w.getLsbD 1) (w.getLsbD 0) p.cmd_i p.cmdx_i p.lenerr_i
  obtain ⟨hp1x, hp01, hp00⟩ := hostop_patterns w
  rw [hp1x, hp01, hp00]
  exact ⟨hreset, fun h => hstart h.1 h.2, fun h => hignored h.1 h.2, fun h => hquiet h.1 h.2⟩

/-! Decoding and encoding (R73, R81, R83). -/

/-- Decoding an encoded instruction that is not START gives it back, whatever ST is. -/
theorem decode_encode {i : Instr} (st : RunState) (h : ∀ c x e, i ≠ .start c x e) : decode st (encode i) = i := by
  cases i with
  | start c x e => exact absurd rfl (h c x e)
  | sym0 | sym1 | symx | trail | gap | endgap | reset | tick => rfl

/-- The ports of a START are read as START in IDLE and as TICK outside. -/
theorem decode_encode_start (st : RunState) (c x : CmdWord) (e : Bool) :
    decode st (encode (.start c x e)) = if st = .idle then .start c x e else .tick := by
  split
  next hst => rw [hst]; rfl
  next hst => exact selectHostop_start_ignored hst c x e

/-- Decoding in IDLE gives every encoded instruction back. -/
theorem decode_encode_idle (i : Instr) : Sys2Proof.Laws.RoundTrip.Statement i := by
  cases i with
  | start c x e => exact Sys2Proof.Laws.RoundTrip.start c x e
  | _ => exact decode_encode .idle (by simp)

/-- The canonical word of a row's operation is the row's value, its ignored bits 0. -/
theorem encode_row : ∀ r ∈ uopTable, encode r.op.toInstr = .uop r.value := by
  decide

/-- Settles O3: a decoded word encodes to the value of the row that selects it. -/
theorem decodeAndEncodeAgree : Obligations.DecodeAndEncodeAgree := by
  refine ⟨decode_encode_idle, fun st _ => decode_encode st, decode_encode_start, fun w r hr hsel => ?_⟩
  have hval : w &&& r.mask = r.value := by simpa [UopRow.selects] using hsel
  show encode (decodeUop w).toInstr = _
  rw [(decodeUop_eq_iff w r hr).2 hval, encode_row r hr, hval]

/-- Settles O4. -/
theorem writtenWordsDecode : Obligations.WrittenWordsDecode :=
  ⟨rfl, rfl, rfl, rfl, rfl, rfl, rfl, rfl, rfl⟩

/-! Pulse codes and event words (R75, R76, R77). -/

/-- Reading the code of a pulse code gives it back. -/
theorem ofCode_code (p : PulseCode) : PulseCode.ofCode p.code = some p := by
  cases p <;> rfl

/-- The low two bits of a pulse code are its duration select, the top bit its level. -/
theorem code_fields (p : PulseCode) : p.code.extractLsb' 0 2 = p.dsel.code ∧ p.code.extractLsb' 2 1 = p.level.bit := by
  cases p <;> exact ⟨rfl, rfl⟩

/-- The ROM at the code of a duration select is that duration. -/
theorem romAt_code (d : Dsel) : romAt d.code = some (rom d) := by
  cases d <;> rfl

/-- In the interval of an event's load the ports show the strobe and the event's word. -/
theorem outputs_emit (s : State) (p : PulseCode) :
    (s.emit p.level (rom p.dsel)).outputs.stb_o = 1#1 ∧
      (s.emit p.level (rom p.dsel)).outputs.level_o ++ (s.emit p.level (rom p.dsel)).outputs.tmr_o = (pulseEvent p).word :=
  ⟨rfl, rfl⟩

/-- Settles O8. -/
theorem pulseCodesAndEventWords : Obligations.PulseCodesAndEventWords := by
  refine ⟨rfl, rfl, rfl, rfl, rfl, rfl, rfl, rfl, fun p => ?_, rfl, rfl, rfl, rfl, rfl, outputs_emit⟩
  obtain ⟨hdsel, hlevel⟩ := code_fields p
  rw [hdsel, hlevel]
  exact ⟨ofCode_code p, rfl, romAt_code p.dsel, rfl⟩

/-! The gaps and the grammar table (R78). -/

/-- Settles O14. -/
theorem gapAndEndgapIssueSilence : Obligations.GapAndEndgapIssueSilence := fun _ => ⟨rfl, rfl⟩

/-- In the phases that the grammar table gives it, an operation's pulse code is the table's. -/
theorem issuedPulse_of_pulseOf {op : SlotOp} {ph : BitVec 1} {p : PulseCode} (h : pulseOf op ph = some p) :
    issuedPulse op ph = some p := by
  cases op with
  | sym0 | sym1 | symx | trail => exact h
  | gap | endgap =>
    rcases phase_cases ph with rfl | rfl
    · exact h
    · cases h

/-- Settles O17: an operation loads the event of its pulse code, and SYMX raises. -/
theorem grammarTableHolds : Obligations.GrammarTableHolds :=
  ⟨fun _ _ _ h => exec_of_issuedPulse (issuedPulse_of_pulseOf h), rfl, rfl, rfl, rfl, rfl, rfl, fun _ => rfl, rfl, rfl, rfl,
    rfl, rfl, rfl⟩

end Sys2Proof.Machine
end

section
/-! ### The symbol mapper (40_symbol_mapper.md R104, R105) -/

namespace Sys2Proof.Machine

open Sys2Proof

variable {s t u : State}

/-! Purity: the mapper sees the operation and the phase. -/

/-- In two states with one operation and one phase the slot operation loads one event, or raises in both. -/
theorem exec_slotOp_alike (hop : s.slotOp = u.slotOp) (hph : s.ph = u.ph) :
    (∃ ev : Event, exec s.slotOp.toInstr s = .next (s.emit ev.level ev.dur) ∧
      exec u.slotOp.toInstr u = .next (u.emit ev.level ev.dur)) ∨
    (exec s.slotOp.toInstr s = .next (s.raise .symbol s.slot) ∧
      exec u.slotOp.toInstr u = .next (u.raise .symbol u.slot)) := by
  rw [← hop]
  by_cases hsymx : s.slotOp = .symx
  · rw [hsymx]
    exact .inr ⟨rfl, rfl⟩
  · obtain ⟨p, hp⟩ := issuedPulse_isSome s.ph hsymx
    exact .inl ⟨pulseEvent p, exec_of_issuedPulse hp, exec_of_issuedPulse (hph ▸ hp)⟩

/-- Settles O16: at a symbol slot the class of the cell gives the operation. -/
theorem mapperDependsOnClassAndPhaseOnly : Obligations.MapperDependsOnClassAndPhaseOnly := by
  intro s u hs hu hsr hur hph hclass
  refine exec_slotOp_alike ?_ hph
  rw [slotOp_symbol s hs hsr, slotOp_symbol u hu hur, hclass]

/-! The rising edge. -/

/-- The grammar table has HIGH in phase 0 of every operation but the gaps. -/
theorem pulseOf_first_high {op : SlotOp} {p : PulseCode} (h : pulseOf op 0#1 = some p)
    (hop : ¬ (op = .gap ∨ op = .endgap)) : p.level = .high := by
  cases op with
  | symx => cases h
  | gap | endgap => simp at hop
  | sym0 | sym1 | trail => cases h; rfl

/-- In a run the level is HIGH throughout the first event of a symbol or trailer slot. -/
theorem RunInv.level_high (h : RunInv s) (hph : s.ph = 0#1) (hslot : s.slot.toNat ≤ 24) : s.level = .high := by
  obtain ⟨ev, hev, hlevel, _⟩ := h.wire
  obtain ⟨q, hq, rfl⟩ := eventAt_eq_some hev
  rw [State.pos_ph, hph] at hq
  refine hlevel.trans (pulseOf_first_high hq ?_)
  rw [gap_or_endgap_iff s.cmd s.cmdx h.legal, State.pos_slot]
  omega

/-- In a run the level is LOW before every expiry into a first phase: a HIGH event has its slot's second phase next. -/
theorem RunInv.level_low (h : RunInv s) {p : Position} (hn : nextPosition s.pos = some p) (hp : p.ph = 0#1) :
    s.level = .low := by
  cases hlevel : s.level with
  | low => rfl
  | high =>
    obtain ⟨ev, hev, hwire, _⟩ := h.wire
    obtain ⟨hph, hslot⟩ := eventAt_high h.legal hev (hwire ▸ hlevel)
    cases (nextPosition_first hslot hph).symm.trans hn
    cases hp

/-- A slot operation does not move the position. -/
theorem SlotEffect.pos {op : SlotOp} (h : SlotEffect op s t) : t.pos = s.pos := by
  cases h <;> rfl

/-- The strobe is up only after a step from IDLE or an expiry into the next position. -/
theorem strobe_cause (h : Inv s) (hstep : step s = .next t) (hstb : t.stb = true) :
    s.st = .idle ∨ (s.st = .run ∧ nextPosition s.pos = some t.pos) := by
  rcases step_effect hstep with ⟨_, rfl⟩ | ⟨_, _, heff⟩
  · cases hstb
  · cases heff with
    | lengthFault | prescanFault | countdown | halt => cases hstb
    | rest hst =>
      obtain ⟨_, _, hdown⟩ := atRest_of_inv h hst
      simp [hdown] at hstb
    | beginsRun hst => exact .inl hst
    | enters hst _ p hn _ ht => exact .inr ⟨hst, by rw [ht.pos, State.setPos_pos, hn]⟩

/-- Settles O49: LOW before, as IDLE is at rest and the event after a HIGH one is in its slot; HIGH after, by the invariant. -/
theorem symbolAndTrailerSlotsBeginWithARisingEdge : Obligations.SymbolAndTrailerSlotsBeginWithARisingEdge := by
  intro s t hs hstep hstb hph hslot
  have ht : Reachable t := .step s t hs hstep
  have hinv := inv_of_reachable hs
  obtain ⟨_, _, hstrobe⟩ := reachableStatesMeetTheTable t ht
  obtain ⟨_, hrun'⟩ := (inv_run (hstrobe hstb)).1 (inv_of_reachable ht)
  refine ⟨?_, hrun'.level_high hph hslot⟩
  rcases strobe_cause hinv hstep hstb with hidle | ⟨hst, hn⟩
  · obtain ⟨_, hlow, _⟩ := atRest_of_inv hinv (by simp [hidle])
    exact hlow
  · obtain ⟨_, hrun⟩ := (inv_run hst).1 hinv
    exact hrun.level_low hn hph

/-! The HIGH time. -/

theorem highTicks_append (a b : List Event) : highTicks (a ++ b) = highTicks a + highTicks b := by
  unfold highTicks
  rw [List.filter_append, totalTicks_append]

theorem highTicks_flatten_replicate (n : Nat) (es : List Event) :
    highTicks (List.replicate n es).flatten = n * highTicks es := by
  induction n with
  | zero => simp [highTicks, totalTicks]
  | succ n ih => rw [List.replicate_succ, List.flatten_cons, highTicks_append, ih, Nat.succ_mul, Nat.add_comm]

/-- An unmarked symbol is HIGH for SHORT, or for LONG = SHORT + 640 if it is `1`. -/
theorem highTicks_pairOf (c : CmdWord) (i : SymIdx) :
    highTicks (pairOf (symClass c 0#24 i)) = if c.getLsbD (23 - i.val) then 1030 else 390 := by
  rw [symClass_eq, BitVec.getLsbD_zero]
  cases c.getLsbD (23 - i.val) <;> rfl

/-- A list of unmarked symbols is HIGH for SHORT each and 640 more for each `1`. -/
theorem highTicks_flatMap_pairOf (c : CmdWord) (is : List SymIdx) :
    highTicks (is.flatMap fun i => pairOf (symClass c 0#24 i)) =
      390 * is.length + 640 * (is.filter fun i => c.getLsbD (23 - i.val)).length := by
  induction is with
  | nil => rfl
  | cons i is ih =>
    rw [List.flatMap_cons, highTicks_append, ih, highTicks_pairOf]
    cases hbit : c.getLsbD (23 - i.val) <;> simp [hbit] <;> omega

/-- The 24 symbols of a command. -/
theorem highTicks_pairsBefore (c : CmdWord) : highTicks (pairsBefore c 0#24 24) = 9360 + 640 * ones c := by
  unfold pairsBefore ones
  rw [List.take_of_length_le (by simp), highTicks_flatMap_pairOf, List.length_finRange]

/-- A gap is LOW. -/
theorem highTicks_silence : highTicks [evLSil] = 0 := rfl

/-- The trailer adds SHORT, the gap nothing. -/
theorem highTicks_frame (c : CmdWord) : highTicks (frame c) = 9750 + 640 * ones c := by
  have htrail : highTicks [evHShort, evLLong] = 390 := rfl
  unfold frame
  rw [highTicks_append, highTicks_append, highTicks_pairsBefore, htrail, highTicks_silence]
  omega

/-- Settles O51: ten frames, and an end gap that is LOW. -/
theorem highTimeCountsTheOnes : Obligations.HighTimeCountsTheOnes := by
  intro c
  refine ⟨highTicks_frame c, ?_⟩
  unfold transmission
  rw [highTicks_append, highTicks_flatten_replicate, highTicks_frame, highTicks_silence, constants_repeatCount]
  omega

end Sys2Proof.Machine
end

section
/-! ### The framing sequencer: the next position and the halt (41_framing_sequencer.md R113, R114) -/

namespace Sys2Proof.Machine

open Sys2Proof

variable {s t : State}

/-- Settles O18: the five cases, and effect by effect what a tick of a run does to the position. -/
theorem nextPositionFollowsTheFiveCases : Obligations.NextPositionFollowsTheFiveCases := by
  refine ⟨fun rep slot => ⟨fun hs => nextPosition_first (p := ⟨rep, slot, 0#1⟩) hs rfl,
    fun hs => nextPosition_second (p := ⟨rep, slot, 1#1⟩) hs rfl,
    fun hr => nextPosition_gap (p := ⟨rep, 25#5, 0#1⟩) rfl hr, by decide, by decide⟩, fun s t h hst hr => ?_⟩
  cases ((step_iff hr).1 h).2 with
  | lengthFault hidle | prescanFault hidle | beginsRun hidle => simp [hst] at hidle
  | rest hne => exact absurd hst hne
  | countdown _ htmr => exact .inl ⟨htmr, rfl⟩
  | halt _ htmr hn => exact .inr (.inl ⟨htmr, hn, rfl⟩)
  | enters _ htmr p hn _ ht => exact .inr (.inr ⟨htmr, by rw [ht.pos, State.setPos_pos, hn]⟩)

/-- The invariant in a run. -/
theorem runInv_of_inv (h : Inv s) (hst : s.st = .run) : RunInv s := ((inv_run hst).1 h).2

/-- In a run the level is HIGH in the slots 0 to 24 only. -/
theorem RunInv.slot_of_high (h : RunInv s) (hlevel : s.level = .high) : s.slot.toNat ≤ 24 := by
  obtain ⟨ev, hev, hwire, _⟩ := h.wire
  exact (eventAt_high h.legal hev (hwire ▸ hlevel)).2

/-- Settles O20: the end gap has no next position, and its slot is LOW. -/
theorem endgapExpiryHalts : Obligations.EndgapExpiryHalts := by
  refine ⟨fun s hready hst htmr hpos => ⟨⟨s.halt, ?_, rfl, rfl, rfl⟩, fun hinv => ?_⟩, fun s hready hst hr => ?_⟩
  · have hn : nextPosition s.pos = none := by rw [hpos]; rfl
    calc exec .tick s = plainTick s := rfl
      _ = .next s.halt := by rw [plainTick_expiry hready hst (by simp [htmr]), expire_eq, hn]
  · have hslot : s.slot = 25#5 := congrArg Position.slot hpos
    cases hlevel : s.level with
    | low => rfl
    | high => exact absurd ((runInv_of_inv hinv hst).slot_of_high hlevel) (by simp [hslot])
  · rw [step_plain hr (.inr (by simp [hst]))]
    exact plainTick_rest (s := s.consume) hready (by simp [hst])

end Sys2Proof.Machine
end

section
/-! ### Counts, lengths and start ticks of the event lists (41_framing_sequencer.md R115, R116, R121, R122) -/

namespace Sys2Proof.Machine

open Sys2Proof

/-! Lengths in ticks. -/

/-- A valid symbol lasts a slot, whatever its value. -/
theorem totalTicks_pairOf {k : SymClass} (h : k ≠ .sx) : totalTicks (pairOf k) = 1420 := by
  cases k with
  | sx => exact absurd rfl h
  | s0 | s1 => rfl

/-- The valid symbols before symbol k last k slots. -/
theorem totalTicks_pairsBefore (c x : CmdWord) {k : Nat} (hk : k ≤ 24)
    (hx : ∀ i : SymIdx, i.val < k → x.getLsbD (23 - i.val) = false) : totalTicks (pairsBefore c x k) = 1420 * k := by
  induction k with
  | zero => rfl
  | succ k ih =>
    have hvalid : symClass c x ⟨k, hk⟩ ≠ .sx := by
      rw [ne_eq, symClass_sx, hx ⟨k, hk⟩ (by simp)]
      decide
    rw [pairsBefore_succ c x ⟨k, hk⟩, totalTicks_append, ih (by omega) fun i hi => hx i (by omega),
      totalTicks_pairOf hvalid]
    omega

theorem totalTicks_flatten_replicate (n : Nat) (es : List Event) :
    totalTicks (List.replicate n es).flatten = n * totalTicks es := by
  simp [totalTicks, List.map_flatten, List.sum_flatten]

/-- The trailer and the gap last 1420 and 9920 ticks. -/
theorem totalTicks_frame (c : CmdWord) : totalTicks (frame c) = 45420 := by
  unfold frame
  rw [totalTicks_append, totalTicks_append, totalTicks_pairsBefore c 0#24 le_rfl (by simp)]
  rfl

theorem totalTicks_transmission (c : CmdWord) : totalTicks (transmission c) = 464120 := by
  unfold transmission
  rw [totalTicks_append, totalTicks_flatten_replicate, totalTicks_frame]
  rfl

/-! Numbers of HIGH and LOW events. -/

/-- The number of events of a level. -/
def levelCount (l : Level) (es : List Event) : Nat := (es.filter fun e => e.level == l).length

theorem levelCount_append (l : Level) (a b : List Event) : levelCount l (a ++ b) = levelCount l a + levelCount l b := by
  simp [levelCount]

theorem levelCount_flatten_replicate (l : Level) (n : Nat) (es : List Event) :
    levelCount l (List.replicate n es).flatten = n * levelCount l es := by
  simp [levelCount, List.filter_flatten]

/-- An unmarked symbol has one event of each level. -/
theorem levelCount_pairOf (l : Level) (c : CmdWord) (i : SymIdx) : levelCount l (pairOf (symClass c 0#24 i)) = 1 := by
  rw [symClass_eq, BitVec.getLsbD_zero]
  cases l <;> cases c.getLsbD (23 - i.val) <;> rfl

/-- The symbols before symbol k have k events of each level. -/
theorem levelCount_pairsBefore (l : Level) (c : CmdWord) {k : Nat} (hk : k ≤ 24) :
    levelCount l (pairsBefore c 0#24 k) = k := by
  induction k with
  | zero => rfl
  | succ k ih => rw [pairsBefore_succ c 0#24 ⟨k, hk⟩, levelCount_append, ih (by omega), levelCount_pairOf]

/-- Ten frames of 24 symbols and a trailer with one event of each level and a gap, which is LOW as the end gap is. -/
theorem levelCount_transmission (l : Level) (c : CmdWord) :
    levelCount l (transmission c) = 10 * (25 + levelCount l [evLSil]) + levelCount l [evLSil] := by
  have htrail : levelCount l [evHShort, evLLong] = 1 := by cases l <;> rfl
  unfold transmission frame
  rw [levelCount_append, levelCount_flatten_replicate, levelCount_append, levelCount_append,
    levelCount_pairsBefore l c le_rfl, htrail, constants_repeatCount]

/-- Settles O50: the sums over a slot, a frame and the ten frames with the end gap. -/
theorem frameAndTransmissionTotals : Obligations.FrameAndTransmissionTotals := fun c =>
  ⟨frame_length c, transmission_length c, totalTicks_pairsBefore c 0#24 le_rfl (by simp), totalTicks_frame c,
    totalTicks_transmission c, levelCount_transmission .high c, levelCount_transmission .low c⟩

/-! The chain of events. -/

/-- The events of fewer positions are the first of those of more. -/
theorem eventsUpTo_prefix (c x : CmdWord) {m n : Nat} (h : m ≤ n) : eventsUpTo c x m <+: eventsUpTo c x n := by
  obtain ⟨d, rfl⟩ := Nat.exists_eq_add_of_le h
  unfold eventsUpTo
  rw [List.range_add, List.filterMap_append]
  exact List.prefix_append _ _

/-- With no symbol marked every position has an event. -/
theorem exists_eventAt (c : CmdWord) {j : Nat} (hj : j ≤ 510) : ∃ ev, eventAt c 0#24 (positionAt j) = some ev :=
  eventAt_isSome (positionLegal_positionAt hj) (decodeUop_uop_ne_symx c _ _)

/-- With no symbol marked the first n positions have n events. -/
theorem eventsUpTo_length (c : CmdWord) {n : Nat} (hn : n ≤ 511) : (eventsUpTo c 0#24 n).length = n := by
  induction n with
  | zero => rfl
  | succ n ih =>
    obtain ⟨ev, hev⟩ := exists_eventAt c (j := n) (by omega)
    rw [eventsUpTo_succ hev, List.length_append, ih (by omega)]
    rfl

/-- The first n events of a transmission are those of the first n positions. -/
theorem take_transmission (c : CmdWord) {n : Nat} (hn : n ≤ 511) : (transmission c).take n = eventsUpTo c 0#24 n := by
  have h := List.prefix_iff_eq_take.1 (eventsUpTo_prefix c 0#24 hn)
  rw [eventsUpTo_length c hn, eventsUpTo_eq_transmission] at h
  exact h.symm

/-- The two events of slot k of the first frame, the trailer's too, divide the slot at `firstTicks`. -/
theorem eventAt_slot (c : CmdWord) {k : Nat} (hk : k ≤ 24) :
    ∃ a b : Event, eventAt c 0#24 ⟨0#4, BitVec.ofNat 5 k, 0#1⟩ = some a ∧
      eventAt c 0#24 ⟨0#4, BitVec.ofNat 5 k, 1#1⟩ = some b ∧ a.dur.toNat = firstTicks c k ∧
      firstTicks c k + b.dur.toNat = 1420 := by
  have hr : (0#4 : BitVec 4) ≠ Config.repeatCount := by decide
  unfold eventAt
  rcases Nat.lt_or_eq_of_le hk with hlt | rfl
  · have hslot : (BitVec.ofNat 5 k).toNat = (⟨k, hlt⟩ : SymIdx).val := Nat.mod_eq_of_lt (by omega)
    have hone : slotIsOne c k = c.getLsbD (23 - k) := by simp [slotIsOne, hlt]
    rw [decodeUop_uop_symbol c 0#24 hr hslot, symClass_eq, BitVec.getLsbD_zero, firstTicks_eq, hone]
    cases c.getLsbD (23 - k) <;> exact ⟨_, _, rfl, rfl, rfl, rfl⟩
  · rw [decodeUop_uop_trail c 0#24 hr]
    exact ⟨_, _, rfl, rfl, rfl, rfl⟩

/-- The event of the gap. -/
theorem eventAt_gap (c : CmdWord) : eventAt c 0#24 (positionAt 50) = some evLSil := by
  rw [positionAt_slot_start (k := 25) le_rfl]
  unfold eventAt
  rw [decodeUop_uop_gap c 0#24 (by decide)]
  rfl

/-- The start ticks of the two events of slot k of repetition r (R121); slot 25 is the gap's. -/
theorem startTick_first (c : CmdWord) (r : Nat) {k : Nat} (hk : k ≤ 25) :
    startTick c (51 * r + 2 * k) = 45420 * r + 1420 * k := by
  rw [(startTick_printed c).2 r (2 * k) (by omega)]
  split_ifs <;> omega

theorem startTick_second (c : CmdWord) (r : Nat) {k : Nat} (hk : k ≤ 24) :
    startTick c (51 * r + (2 * k + 1)) = 45420 * r + 1420 * k + firstTicks c k := by
  have hslot : (2 * k + 1) / 2 = k := by omega
  rw [(startTick_printed c).2 r (2 * k + 1) (by omega), hslot, firstTicks_eq]
  split_ifs <;> omega

/-- Each event of a repetition starts when the one before it has ended: the first and second of slot k, and the gap. -/
theorem startTick_succ_frame (c : CmdWord) (r : Nat) {q : Nat} (hq : q < 51) {ev : Event}
    (hev : eventAt c 0#24 (positionAt q) = some ev) :
    startTick c (51 * r + (q + 1)) = startTick c (51 * r + q) + ev.dur.toNat := by
  obtain rfl | ⟨k, hk, hq⟩ : q = 50 ∨ ∃ k ≤ 24, q = 2 * k ∨ q = 2 * k + 1 := by
    by_cases h : q = 50
    · exact .inl h
    · exact .inr ⟨q / 2, by omega, by omega⟩
  · cases (eventAt_gap c).symm.trans hev
    have hnext : startTick c (51 * (r + 1) + 2 * 0) = 45420 * (r + 1) + 1420 * 0 := startTick_first c (r + 1) (by omega)
    have hgap : startTick c (51 * r + 2 * 25) = 45420 * r + 1420 * 25 := startTick_first c r le_rfl
    have hdur : evLSil.dur.toNat = 9920 := rfl
    rw [hgap, hdur, show 51 * r + (50 + 1) = 51 * (r + 1) + 2 * 0 by omega, hnext]
    omega
  · obtain ⟨a, b, ha, hb, hfirst, hslot⟩ := eventAt_slot c hk
    rcases hq with rfl | rfl
    · rw [positionAt_slot_start (by omega), ha] at hev
      cases hev
      rw [startTick_second c r hk, startTick_first c r (by omega), hfirst]
    · rw [positionAt_slot_second hk, hb] at hev
      cases hev
      rw [show 2 * k + 1 + 1 = 2 * (k + 1) by omega, startTick_first c r (by omega), startTick_second c r hk]
      omega

/-- Each event starts when the one before it has ended. -/
theorem startTick_succ (c : CmdWord) {j : Nat} (hj : j < 510) {ev : Event}
    (hev : eventAt c 0#24 (positionAt j) = some ev) : startTick c (j + 1) = startTick c j + ev.dur.toNat := by
  rw [← Nat.div_add_mod j 51] at hev ⊢
  rw [eventAt_repetition c 0#24 (by omega) (by omega)] at hev
  exact startTick_succ_frame c (j / 51) (by omega) hev

/-- `start(j)` is the time the events before it take. -/
theorem startTick_eq (c : CmdWord) {j : Nat} (hj : j ≤ 510) : startTick c j = totalTicks (eventsUpTo c 0#24 j) := by
  induction j with
  | zero => rfl
  | succ j ih =>
    obtain ⟨ev, hev⟩ := exists_eventAt c (j := j) (by omega)
    rw [startTick_succ c (by omega) hev, ih (by omega), eventsUpTo_succ hev, totalTicks_append]
    rfl

/-- Settles O52: each event starts when the one before it has ended. -/
theorem transmissionIsTheChainOfEvents : Obligations.TransmissionIsTheChainOfEvents := fun c =>
  ⟨eventsUpTo_eq_transmission c, fun j hj => by rw [take_transmission c (by omega), startTick_eq c hj]⟩

end Sys2Proof.Machine
end

section
/-! ### Runs: the state n ticks after an accepted START (41_framing_sequencer.md R116, R119, R121) -/

namespace Sys2Proof.Machine

open Sys2Proof

variable {s t : State}

/-! A tick in a state that meets the invariant answers. -/

/-- A slot operation always has an effect. -/
theorem exists_slotEffect (op : SlotOp) (s : State) : ∃ t, SlotEffect op s t := by
  by_cases hop : op = .symx
  · exact ⟨_, .fault hop⟩
  · obtain ⟨p, hp⟩ := issuedPulse_isSome s.ph hop
    exact ⟨_, .load p hp⟩

/-- An accepted START always has an effect. -/
theorem exists_tickEffect_start (hst : s.st = .idle) (hs : s.ports.start_i = true) : ∃ t, TickEffect s t := by
  cases he : s.ports.lenerr_i with
  | true => exact ⟨_, .lengthFault hst hs he⟩
  | false =>
    obtain ⟨u, hu⟩ := exists_slotEffect s.started.slotOp s.started
    cases hx : firstSx s.ports.cmdx_i with
    | none => exact ⟨_, .beginsRun hst hs he (.inl hx) u hu⟩
    | some k =>
      cases hfp : Config.faultPrefix with
      | prescan => exact ⟨_, .prescanFault hst hs he hfp k hx⟩
      | lazy => exact ⟨_, .beginsRun hst hs he (.inr hfp) u hu⟩

/-- A tick without a reset always has an effect. -/
theorem exists_tickEffect (s : State) : ∃ t, TickEffect s t := by
  by_cases hrun : s.st = .run
  · rcases Nat.lt_or_ge 1 s.tmr.toNat with htmr | htmr
    · exact ⟨_, .countdown hrun htmr⟩
    · cases hn : nextPosition s.pos with
      | none => exact ⟨_, .halt hrun htmr hn⟩
      | some p =>
        obtain ⟨u, hu⟩ := exists_slotEffect (s.consume.setPos p).slotOp (s.consume.setPos p)
        exact ⟨_, .enters hrun htmr p hn u hu⟩
  · by_cases hstart : s.ports.start_i = true ∧ s.st = .idle
    · exact exists_tickEffect_start hstart.2 hstart.1
    · exact ⟨_, .rest hrun (by simpa [imp_iff_not_or] using hstart)⟩

/-- The invariant allows no reserved code. -/
theorem codes_of_inv (h : Inv s) : s.errkind ≠ .reserved ∧ positionLegal s.pos = true := by
  cases hst : s.st with
  | idle =>
    obtain ⟨hpos, _, _, _, hk, _⟩ := idleRow_of_inv h hst
    exact ⟨by simp [hk], by rw [hpos]; decide⟩
  | run =>
    have hrun := runInv_of_inv h hst
    exact ⟨by simp [hrun.errkind], hrun.legal⟩
  | done =>
    obtain ⟨hpos, _, _, _, hk, _⟩ := doneRow_of_inv h hst
    exact ⟨by simp [hk], by rw [hpos]; decide⟩
  | fault =>
    obtain ⟨_, _, _, hk, hrep, _, k, hle, hslot, _⟩ := faultRow_of_inv h hst
    refine ⟨by rcases hk with hk | hk <;> simp [hk], (positionLegal_iff _).2 (.inl ⟨by simp [hrep], .inl ?_⟩)⟩
    rw [State.pos_slot]
    omega

/-- In a state that meets the invariant START and TICK have a meaning. -/
theorem ready_of_inv (h : Inv s) : s.ready := by
  obtain ⟨hk, hlegal⟩ := codes_of_inv h
  exact ⟨h.1, by simp [State.reservedHeld, hk, hlegal]⟩

/-- From a state that meets the invariant a tick without a reset answers one of its effects. -/
theorem exists_step (h : Inv s) (hr : s.ports.rst_i = false) : ∃ t, step s = .next t ∧ TickEffect s t := by
  obtain ⟨t, ht⟩ := exists_tickEffect s
  exact ⟨t, step_of_tickEffect hr (ready_of_inv h) ht, ht⟩

/-! A tick without a reset uses up its own sample and no other. -/

theorem SlotEffect.inputs {op : SlotOp} (h : SlotEffect op s t) : t.inputs = s.inputs := by
  cases h <;> rfl

theorem TickEffect.inputs (h : TickEffect s t) : t.inputs = s.inputs.tail := by
  cases h with
  | lengthFault | prescanFault | rest | countdown | halt => rfl
  | beginsRun _ _ _ _ _ ht => exact ht.inputs
  | enters _ _ _ _ _ ht => exact ht.inputs

/-- The host asks for no reset at this tick or later. -/
def State.noReset (s : State) : Prop := ∀ p ∈ s.inputs, p.rst_i = false

theorem State.noReset.ports (h : s.noReset) : s.ports.rst_i = false := by
  unfold State.noReset at h
  unfold State.ports
  cases hin : s.inputs with
  | nil => rfl
  | cons p rest => exact h p (by simp [hin])

theorem State.noReset.tail (h : s.noReset) (ht : t.inputs = s.inputs.tail) : t.noReset := fun p hp =>
  h p (List.mem_of_mem_tail (ht ▸ hp))

/-! The state n ticks after the START. -/

/-- What holds n ticks after an accepted START with the command c, x, e, with no reset since: the event being issued ends
TMR ticks from now, or the run has ended and took no more than n ticks. -/
structure OnTime (c x : CmdWord) (e : Bool) (n : Nat) (s : State) : Prop where
  inv : Inv s
  noReset : s.noReset
  cmd : s.cmd = c
  cmdx : s.cmdx = x
  started : s.st ≠ .idle
  length : s.errkind = .length ↔ e = true
  during : s.st = .run → totalTicks s.trace = n + s.tmr.toNat
  after : s.st ≠ .run → totalTicks s.trace ≤ n

variable {c x : CmdWord} {e : Bool} {n : Nat}

/-- The operation at the position a run enters n ticks after the START, the events before it having taken n ticks. -/
theorem Entering.onTime (h : Entering s) (ht : SlotEffect s.slotOp s t) (hno : t.noReset)
    (htotal : totalTicks s.trace = n) : OnTime s.cmd s.cmdx false n t := by
  have hst := h.st
  have hk := h.errkind
  have hinv := h.inv ht
  cases ht with
  | load p _ =>
    refine ⟨hinv, hno, rfl, rfl, by simp [hst], by simp [hk], fun _ => ?_, fun hne => absurd hst hne⟩
    show totalTicks (s.trace ++ [pulseEvent p]) = n + (pulseEvent p).dur.toNat
    rw [totalTicks_append, htotal]
    rfl
  | fault => exact ⟨hinv, hno, rfl, rfl, by simp, by simp, by simp, fun _ => htotal.le⟩

/-- An accepted START begins at tick 0. -/
theorem onTime_start (h : Inv s) (hst : s.st = .idle) (hs : s.ports.start_i = true) (hno : s.noReset)
    (heff : TickEffect s t) : OnTime s.ports.cmd_i s.ports.cmdx_i s.ports.lenerr_i 0 t := by
  have hinv := heff.inv h
  have hno' := hno.tail heff.inputs
  obtain ⟨_, _, _, _, _, _, _, _, htrace⟩ := idleRow_of_inv h hst
  have htotal : totalTicks s.trace = 0 := by rw [htrace]; rfl
  cases heff with
  | lengthFault _ _ he =>
    exact ⟨hinv, hno', rfl, rfl, by simp, by simp [he], by simp, fun _ => htotal.le⟩
  | prescanFault _ _ he _ k _ =>
    exact ⟨hinv, hno', rfl, rfl, by simp, by simp [he], by simp, fun _ => htotal.le⟩
  | beginsRun _ _ he hx _ ht =>
    rw [he]
    exact (entering_started h hst hx).onTime ht hno' htotal
  | rest _ hs' => simp [hs, hst] at hs'
  | countdown hrun | halt hrun | enters hrun => simp [hst] at hrun

/-- In a run the timer is at least 1. -/
theorem RunInv.tmr_pos (h : RunInv s) : 1 ≤ s.tmr.toNat := by
  obtain ⟨_, _, _, hpos, _⟩ := h.wire
  exact hpos

/-- Every tick keeps the count. -/
theorem OnTime.tick (h : OnTime c x e n s) (heff : TickEffect s t) : OnTime c x e (n + 1) t := by
  obtain ⟨hinv, hno, rfl, rfl, hstarted, hlength, hduring, hafter⟩ := h
  have hinv' := heff.inv hinv
  have hno' := hno.tail heff.inputs
  have hlast (hst : s.st = .run) (htmr : s.tmr.toNat ≤ 1) : totalTicks s.trace = n + 1 := by
    have hpos := (runInv_of_inv hinv hst).tmr_pos
    have htotal := hduring hst
    omega
  cases heff with
  | lengthFault hst | prescanFault hst | beginsRun hst => exact absurd hst hstarted
  | rest hst =>
    exact ⟨hinv', hno', rfl, rfl, hstarted, hlength, fun hrun => absurd hrun hst, fun _ => (hafter hst).trans n.le_succ⟩
  | countdown hst htmr =>
    have htotal := hduring hst
    have hcount : s.consume.countdown.tmr.toNat = s.tmr.toNat - 1 := countdown_toNat (s := s.consume) htmr.le
    refine ⟨hinv', hno', rfl, rfl, hstarted, hlength, fun _ => ?_, fun hne => absurd hst hne⟩
    rw [State.countdown_trace, State.consume_trace]
    omega
  | halt hst htmr =>
    exact ⟨hinv', hno', rfl, rfl, by simp, hlength, by simp, fun _ => (hlast hst htmr).le⟩
  | enters hst htmr p hn _ ht =>
    have hk := (runInv_of_inv hinv hst).errkind
    obtain rfl : e = false := by simpa [hk] using hlength
    exact (entering_next (s := s.consume) hinv hst hn).onTime ht hno' (hlast hst htmr)

/-- From an accepted START on, with no reset, every tick answers, on time. -/
theorem runTicks_onTime {rest : List Inputs} (hs : Reachable s) (hst : s.st = .idle)
    (hin : s.inputs = startPorts c x e :: rest) (hno : ∀ p ∈ rest, p.rst_i = false) (n : Nat) :
    ∃ t, runTicks (n + 1) s = .next t ∧ OnTime c x e n t := by
  have hinv := inv_of_reachable hs
  have hports : s.ports = startPorts c x e := by simp [State.ports, hin]
  have hnone : s.noReset := by
    intro p hp
    rw [hin] at hp
    rcases List.mem_cons.1 hp with rfl | hp
    · rfl
    · exact hno p hp
  induction n with
  | zero =>
    obtain ⟨t, hstep, heff⟩ := exists_step hinv hnone.ports
    have ht := onTime_start hinv hst (by rw [hports]; rfl) hnone heff
    rw [hports] at ht
    exact ⟨t, (runTicks_succ 0 s s rfl).trans hstep, ht⟩
  | succ n ih =>
    obtain ⟨u, hu, hon⟩ := ih
    obtain ⟨t, hstep, heff⟩ := exists_step hon.inv hon.noReset.ports
    exact ⟨t, (runTicks_succ _ s u hu).trans hstep, hon.tick heff⟩

end Sys2Proof.Machine
end

section
/-! ### Runs against the reference function (41_framing_sequencer.md R116, R119, R121; 42_pulse_timer.md R135) -/

namespace Sys2Proof.Machine

open Sys2Proof

variable {s : State} {c x : CmdWord} {e : Bool} {n : Nat} {fp : FaultPrefix} {k : SymIdx}

/-! The cases of `encode` (R116). -/

@[simp] theorem encodeCommand_length (fp : FaultPrefix) (c x : CmdWord) :
    encodeCommand fp c x true = ([], .err .length 0#5) := rfl

theorem encodeCommand_valid (fp : FaultPrefix) (c : CmdWord) : encodeCommand fp c 0#24 false = (transmission c, .ok) := by
  simp [encodeCommand, (firstSx_zero 0#24).2 rfl]

theorem encodeCommand_prescan (c : CmdWord) (hk : firstSx x = some k) :
    encodeCommand .prescan c x false = ([], .err .symbol (BitVec.ofNat 5 k.val)) := by
  simp [encodeCommand, hk]

theorem encodeCommand_lazy (c : CmdWord) (hk : firstSx x = some k) :
    encodeCommand .lazy c x false = (pairsBefore c x k.val, .err .symbol (BitVec.ofNat 5 k.val)) := by
  simp [encodeCommand, hk]

/-- A command is of a wrong length, or well formed, or has a first bad symbol. -/
theorem command_cases (x : CmdWord) (e : Bool) :
    e = true ∨ (e = false ∧ x = 0#24) ∨ (e = false ∧ ∃ k, firstSx x = some k) := by
  cases e with
  | true => exact .inl rfl
  | false =>
    cases hx : firstSx x with
    | none => exact .inr (.inl ⟨rfl, (firstSx_zero x).1 hx⟩)
    | some k => exact .inr (.inr ⟨rfl, k, rfl⟩)

/-- What the reference function issues before a fault lasts at most 23 slots. -/
theorem totalTicks_encodeCommand_bad (fp : FaultPrefix) (c : CmdWord) (h : x ≠ 0#24 ∨ e = true) :
    totalTicks (encodeCommand fp c x e).1 ≤ 32660 ∧ ∃ kind idx, (encodeCommand fp c x e).2 = .err kind idx := by
  rcases command_cases x e with rfl | ⟨rfl, rfl⟩ | ⟨rfl, k, hk⟩
  · exact ⟨by simp [totalTicks], _, _, rfl⟩
  · simp at h
  · cases fp with
    | prescan =>
      rw [encodeCommand_prescan c hk]
      exact ⟨by simp [totalTicks], _, _, rfl⟩
    | lazy =>
      rw [encodeCommand_lazy c hk, totalTicks_pairsBefore c x (by omega) (firstSx_least hk)]
      exact ⟨by omega, _, _, rfl⟩

/-- The reference function issues at most a transmission. -/
theorem totalTicks_encodeCommand_le (fp : FaultPrefix) (c x : CmdWord) (e : Bool) :
    totalTicks (encodeCommand fp c x e).1 ≤ 464120 := by
  by_cases h : x ≠ 0#24 ∨ e = true
  · exact (totalTicks_encodeCommand_bad fp c h).1.trans (by omega)
  · obtain ⟨rfl, rfl⟩ : x = 0#24 ∧ e = false := by simpa using h
    rw [encodeCommand_valid]
    exact (totalTicks_transmission c).le

/-! TRACE during and after the run. -/

/-- After the run TRACE and status are those of the reference function. -/
theorem OnTime.ended (h : OnTime c x e n s) (hst : s.st ≠ .run) :
    s.trace = (encodeCommand Config.faultPrefix c x e).1 ∧
      s.verdict = some (encodeCommand Config.faultPrefix c x e).2 := by
  obtain ⟨⟨_, hinv⟩, _, rfl, rfl, hstarted, hlength, _, _⟩ := h
  cases hs : s.st <;> simp only [hs] at hinv
  case idle => exact absurd hs hstarted
  case run => exact absurd hs hst
  case done =>
    obtain ⟨_, _, hk, _, hx, htrace⟩ := hinv
    obtain rfl : e = false := by simpa [hk] using hlength
    rw [hx, encodeCommand_valid]
    exact ⟨htrace, by simp [State.verdict, hs]⟩
  case fault =>
    obtain ⟨_, ⟨hk, hi, _, htrace⟩ | ⟨hk, k, hfirst, hi, hcause⟩⟩ := hinv
    · obtain rfl : e = true := hlength.1 hk
      exact ⟨htrace, by simp [State.verdict, hs, hk, hi]⟩
    · obtain rfl : e = false := by simpa [hk] using hlength
      have hverdict : s.verdict = some (.err .symbol (BitVec.ofNat 5 k.val)) := by simp [State.verdict, hs, hk, hi]
      cases hfp : Config.faultPrefix with
      | prescan =>
        rw [hfp] at hcause
        obtain ⟨_, htrace⟩ := hcause
        rw [encodeCommand_prescan _ hfirst]
        exact ⟨htrace, hverdict⟩
      | lazy =>
        rw [hfp] at hcause
        obtain ⟨_, htrace⟩ := hcause
        rw [encodeCommand_lazy _ hfirst]
        exact ⟨htrace, hverdict⟩

/-- During the run TRACE is the beginning of the reference function's: the position is before the first bad symbol. -/
theorem OnTime.trace_prefix (h : OnTime c x e n s) (hst : s.st = .run) :
    s.trace <+: (encodeCommand Config.faultPrefix c x e).1 := by
  obtain ⟨hinv, _, rfl, rfl, _, hlength, _, _⟩ := h
  have hrun := runInv_of_inv hinv hst
  obtain ⟨hidx, _⟩ := positionAt_positionIndex hrun.legal
  rw [hrun.trace]
  rcases command_cases s.cmdx e with rfl | ⟨rfl, hx⟩ | ⟨rfl, k, hk⟩
  · simp [hrun.errkind] at hlength
  · have hle : positionIndex s.pos + 1 ≤ 511 := by omega
    rw [hx, encodeCommand_valid]
    simpa only [eventsUpTo_eq_transmission] using eventsUpTo_prefix s.cmd 0#24 hle
  · cases hfp : Config.faultPrefix with
    | prescan => simp [hrun.prescan hfp, (firstSx_zero 0#24).2 rfl] at hk
    | lazy =>
      have hbefore : positionIndex s.pos < 2 * k.val := by
        by_contra hge
        have hvalid := hrun.met k ((met_iff hrun.legal k).2 (by omega))
        simp [firstSx_mark hk] at hvalid
      rw [encodeCommand_lazy _ hk, ← eventsUpTo_eq_pairsBefore _ _ (by omega)]
      exact eventsUpTo_prefix _ _ hbefore

/-- The last event of TRACE in a run is the one on the wire. -/
theorem RunInv.trace_last (h : RunInv s) :
    ∃ ev, eventAt s.cmd s.cmdx s.pos = some ev ∧ s.onWire ev ∧
      s.trace = eventsUpTo s.cmd s.cmdx (positionIndex s.pos) ++ [ev] := by
  obtain ⟨ev, hev, hwire⟩ := h.wire
  refine ⟨ev, hev, hwire, h.trace.trans (eventsUpTo_succ ?_)⟩
  rw [(positionAt_positionIndex h.legal).2, hev]

/-- A beginning of a list of events lasts no longer than the list. -/
theorem totalTicks_le_of_prefix {a b : List Event} (h : a <+: b) : totalTicks a ≤ totalTicks b := by
  obtain ⟨d, rfl⟩ := h
  rw [totalTicks_append]
  omega

/-- The run lasts as long as the events of the reference function. -/
theorem OnTime.run_iff (h : OnTime c x e n s) :
    s.st = .run ↔ n < totalTicks (encodeCommand Config.faultPrefix c x e).1 := by
  constructor
  · intro hst
    have htotal := h.during hst
    have hpos := (runInv_of_inv h.inv hst).tmr_pos
    have hle := totalTicks_le_of_prefix (h.trace_prefix hst)
    omega
  · intro hlt
    by_contra hst
    have hle := h.after hst
    rw [(h.ended hst).1] at hle
    omega

/-- The run is over once the events of the reference function are. -/
theorem OnTime.over (h : OnTime c x e n s) (hle : totalTicks (encodeCommand Config.faultPrefix c x e).1 ≤ n) :
    s.st ≠ .run := fun hst => absurd (h.run_iff.1 hst) (by omega)

/-! The profile. -/

/-- The profile during an event is its level. -/
theorem profileAt_during (a : List Event) (ev : Event) (b : List Event) (h : totalTicks a ≤ n)
    (hlt : n < totalTicks a + ev.dur.toNat) : profileAt (a ++ ev :: b) n = ev.level := by
  induction a generalizing n with
  | nil => exact if_pos (by simpa [totalTicks] using hlt)
  | cons d a ih =>
    have hcons : totalTicks (d :: a) = d.dur.toNat + totalTicks a := by simp [totalTicks]
    rw [List.cons_append, profileAt, if_neg (by omega)]
    exact ih (by omega) (by omega)

/-- The profile after the last event is LOW. -/
theorem profileAt_after (es : List Event) (h : totalTicks es ≤ n) : profileAt es n = .low := by
  induction es generalizing n with
  | nil => rfl
  | cons d es ih =>
    have hcons : totalTicks (d :: es) = d.dur.toNat + totalTicks es := by simp [totalTicks]
    rw [profileAt, if_neg (by omega)]
    exact ih (by omega)

/-- On the wire is the level of the profile. -/
theorem OnTime.level (h : OnTime c x e n s) : s.level = profileAt (encodeCommand Config.faultPrefix c x e).1 n := by
  by_cases hst : s.st = .run
  · obtain ⟨ev, _, ⟨hlevel, hpos, hle, _⟩, htrace⟩ := (runInv_of_inv h.inv hst).trace_last
    obtain ⟨b, hb⟩ := h.trace_prefix hst
    have htotal := h.during hst
    have hev : totalTicks [ev] = ev.dur.toNat := by simp [totalTicks]
    rw [htrace, totalTicks_append, hev] at htotal
    rw [← hb, htrace, List.append_assoc, List.singleton_append,
      profileAt_during _ ev b (by omega) (by omega), hlevel]
  · obtain ⟨_, hlow, _⟩ := atRest_of_inv h.inv hst
    rw [hlow, profileAt_after _ (by rw [← (h.ended hst).1]; exact h.after hst)]

/-- Settles O55: at every tick after the START the run is on time. -/
theorem runEqualsTheReferenceFunction : Obligations.RunEqualsTheReferenceFunction := by
  intro s c x e rest hs hst hin hno
  refine ⟨?_, fun n => ?_, transmission_length c, totalTicks_transmission c⟩
  · obtain ⟨t, ht, hon⟩ := runTicks_onTime hs hst hin hno 464120
    exact ⟨t, ht, hon.ended (hon.over (totalTicks_encodeCommand_le _ c x e))⟩
  · obtain ⟨t, ht, hon⟩ := runTicks_onTime hs hst hin hno n
    exact ⟨t, ht, hon.level⟩

/-- A verdict tells DONE from FAULT. -/
theorem verdict_ok_iff : s.verdict = some .ok ↔ s.st = .done := by
  cases hst : s.st <;> simp [State.verdict, hst]

theorem verdict_err {kind : ErrKind} {idx : BitVec 5} (h : s.verdict = some (.err kind idx)) : s.st = .fault := by
  cases hst : s.st <;> simp [State.verdict, hst] at h ⊢

/-- A run of a well-formed command is going on for 464120 ticks, then DONE. -/
theorem OnTime.st_valid (h : OnTime c 0#24 false n s) : s.st = if n < 464120 then .run else .done := by
  have hrun := h.run_iff
  rw [encodeCommand_valid, totalTicks_transmission] at hrun
  split
  next hlt => exact hrun.2 hlt
  next hge =>
    obtain ⟨_, hverdict⟩ := h.ended fun hst => hge (hrun.1 hst)
    rw [encodeCommand_valid] at hverdict
    exact verdict_ok_iff.1 hverdict

/-- Settles O59: a run lasts as long as the events of the reference function. -/
theorem everyRunEnds : Obligations.EveryRunEnds := by
  intro s c x e rest hs hst hin hno
  constructor
  · rintro ⟨rfl, rfl⟩ n
    obtain ⟨t, ht, hon⟩ := runTicks_onTime hs hst hin hno n
    exact ⟨t, ht, hon.st_valid⟩
  · intro hbad n hn
    obtain ⟨t, ht, hon⟩ := runTicks_onTime hs hst hin hno n
    obtain ⟨hle, kind, idx, hverdict⟩ := totalTicks_encodeCommand_bad Config.faultPrefix c hbad
    obtain ⟨_, hended⟩ := hon.ended (hon.over (hle.trans hn))
    exact ⟨t, ht, verdict_err (hended.trans (congrArg some hverdict))⟩

/-! The start ticks. -/

/-- The events up to event j have ended when it has. -/
theorem startTick_add_dur {j : Nat} (hj : j ≤ 510) {ev : Event} (hev : eventAt c 0#24 (positionAt j) = some ev) :
    startTick c j + ev.dur.toNat = totalTicks (eventsUpTo c 0#24 (j + 1)) := by
  rw [startTick_eq c hj, eventsUpTo_succ hev, totalTicks_append]
  simp [totalTicks]

/-- An event starts when an earlier one has ended. -/
theorem startTick_add_dur_le {i j : Nat} (hij : i < j) (hj : j ≤ 510) {ev : Event}
    (hev : eventAt c 0#24 (positionAt i) = some ev) : startTick c i + ev.dur.toNat ≤ startTick c j := by
  rw [startTick_add_dur (by omega) hev, startTick_eq c hj]
  exact totalTicks_le_of_prefix (eventsUpTo_prefix c 0#24 hij)

/-- Every event of a transmission lasts. -/
theorem eventAt_dur_pos {p : Position} {ev : Event} (h : eventAt c x p = some ev) : 1 ≤ ev.dur.toNat := by
  obtain ⟨q, _, rfl⟩ := eventAt_eq_some h
  exact (pulseEvent_dur q).1

/-- Event j is the one that has started at tick start(j) and not ended. -/
theorem eq_of_startTick {i j : Nat} (hi : i ≤ 510) (hj : j ≤ 510) {ev : Event}
    (hev : eventAt c 0#24 (positionAt i) = some ev) (hle : startTick c i ≤ startTick c j)
    (hlt : startTick c j < startTick c i + ev.dur.toNat) : i = j := by
  rcases Nat.lt_trichotomy i j with h | h | h
  · have hended := startTick_add_dur_le h hj hev
    omega
  · exact h
  · obtain ⟨ev', hev'⟩ := exists_eventAt c hj
    have hended := startTick_add_dur_le h hi hev'
    have hpos := eventAt_dur_pos hev'
    omega

/-- Every event starts before the transmission ends. -/
theorem startTick_lt {j : Nat} (c : CmdWord) (hj : j ≤ 510) : startTick c j < 464120 := by
  obtain ⟨ev, hev⟩ := exists_eventAt c hj
  have hpos := eventAt_dur_pos hev
  have hend := startTick_add_dur hj hev
  have hle := totalTicks_le_of_prefix (eventsUpTo_prefix c 0#24 (show j + 1 ≤ 511 by omega))
  rw [eventsUpTo_eq_transmission, totalTicks_transmission] at hle
  omega

/-- At tick start(j) of a run event j is loaded. -/
theorem OnTime.loaded {j : Nat} (h : OnTime c 0#24 false (startTick c j) s) (hj : j ≤ 510) :
    s.pos = positionAt j ∧ s.stb = true ∧ eventAt c 0#24 (positionAt j) = some ⟨s.level, s.tmr⟩ ∧
      s.trace = (transmission c).take (j + 1) := by
  have hst : s.st = .run := h.st_valid.trans (if_pos (startTick_lt c hj))
  have htotal := h.during hst
  have hrun := runInv_of_inv h.inv hst
  obtain ⟨ev, hev, ⟨hlevel, hpos, hle, hstb⟩, htrace⟩ := hrun.trace_last
  obtain ⟨hidx, hat⟩ := positionAt_positionIndex hrun.legal
  rw [h.cmd, h.cmdx] at hev htrace
  rw [← hat] at hev
  have hend := startTick_add_dur hidx hev
  rw [htrace, ← eventsUpTo_succ hev, ← hend] at htotal
  obtain rfl := eq_of_startTick hidx hj hev (by omega) (by omega)
  have htmr : s.tmr = ev.dur := BitVec.eq_of_toNat_eq (by omega)
  refine ⟨hat.symm, hstb.2 htmr, ?_, ?_⟩
  · rw [hev, hlevel, htmr]
  · rw [take_transmission c (by omega), htrace, eventsUpTo_succ hev]

/-- Settles O56: the event on the wire at tick start(j) is event j, in its first interval. -/
theorem eventsStartOnTheirTicks : Obligations.EventsStartOnTheirTicks := by
  intro s c rest hs hst hin hno
  refine ⟨fun j hj => ?_, ?_, ?_⟩
  · obtain ⟨t, ht, hon⟩ := runTicks_onTime hs hst hin hno (startTick c j)
    exact ⟨t, ht, hon.st_valid.trans (if_pos (startTick_lt c hj)), hon.loaded hj⟩
  · obtain ⟨t, ht, hon⟩ := runTicks_onTime hs hst hin hno 464119
    exact ⟨t, ht, hon.st_valid⟩
  · obtain ⟨t, ht, hon⟩ := runTicks_onTime hs hst hin hno 464120
    exact ⟨t, ht, hon.st_valid⟩

end Sys2Proof.Machine
end

section
/-! ### The timer and the tick (42_pulse_timer.md R131, R133, R134, R136) -/

namespace Sys2Proof.Machine

open Sys2Proof

variable {s t : State}

/-! The operation a step runs. -/

/-- The tick of an expiry with a next position issues the operation there (R131). -/
theorem exec_tick_enters {p : Position} (hready : s.ready) (hst : s.st = .run) (htmr : s.tmr = 1#14)
    (hn : nextPosition s.pos = some p) : exec .tick s = issue (s.setPos p) :=
  calc exec .tick s = expire s := plainTick_expiry hready hst (by simp [htmr])
    _ = issue (s.setPos p) := by rw [expire_eq, hn]

/-- An accepted START of a command with no mark begins the run. -/
theorem exec_start_valid (hready : s.ready) (hst : s.st = .idle) (c : CmdWord) :
    exec (.start c 0#24 false) s = beginRun (s.latch c 0#24) := by
  show execStart c 0#24 false s = _
  unfold execStart startUnder
  rw [hst, (firstSx_zero 0#24).2 rfl]
  exact guarded_ready hready _

/-- Settles O9: the expiry and the beginning of a run both end in `issue`, which runs the decoded operation. -/
theorem stepRunsTheDecodedOperation : Obligations.StepRunsTheDecodedOperation := by
  refine ⟨fun s => rfl, fun s p hready hst htmr hn => ?_, fun s c hready hst => ?_⟩
  · rw [exec_tick_enters hready hst htmr hn]
    exact issue_exec (s.setPos p)
  · rw [exec_start_valid hready hst c]
    exact issue_exec (((s.latch c 0#24).setSt .run).setPos ⟨0#4, 0#5, 0#1⟩)

/-- Settles O23: at a position with an event `issue` loads it. -/
theorem expiryLoadsTheNextEvent : Obligations.ExpiryLoadsTheNextEvent := by
  intro s p ev hready hst htmr hn hev
  rw [exec_tick_enters hready hst htmr hn]
  exact issue_event (s := s.setPos p) hev

/-! The intervals of an event (R133). -/

/-- The state in interval i of the event that a state has just loaded, i samples later. -/
def State.inInterval (s : State) (i : Nat) : State :=
  { s with tmr := s.tmr - BitVec.ofNat 14 i, stb := decide (i = 0), inputs := s.inputs.drop i }

/-- Interval 0 is that of the load. -/
theorem State.inInterval_zero (h : s.stb = true) : s.inInterval 0 = s := by
  simp [State.inInterval, ← h]

/-- The next interval follows by one countdown. -/
theorem State.countdown_inInterval (s : State) (i : Nat) :
    (s.inInterval i).consume.countdown = s.inInterval (i + 1) := by
  simp [State.inInterval, State.consume, State.countdown, BitVec.ofNat_add, BitVec.sub_sub]

/-- The timer in interval i. -/
theorem State.inInterval_tmr {i : Nat} (h : i ≤ s.tmr.toNat) : (s.inInterval i).tmr.toNat = s.tmr.toNat - i := by
  have hi : (BitVec.ofNat 14 i).toNat = i := Nat.mod_eq_of_lt (by omega)
  show (s.tmr - BitVec.ofNat 14 i).toNat = _
  rw [BitVec.toNat_sub_of_le (by rwa [BitVec.le_def, hi]), hi]

/-- The sample of interval i is one of the first i + 1, or at rest. -/
theorem State.inInterval_rst_i {i : Nat} (h : ∀ p ∈ s.inputs.take (i + 1), p.rst_i = false) :
    (s.inInterval i).ports.rst_i = false := by
  show ((s.inputs.drop i).headD quiet).rst_i = false
  rw [List.headD_eq_head?_getD, List.head?_drop]
  rw [List.take_add_one] at h
  cases hi : s.inputs[i]? with
  | none => rfl
  | some p => exact h p (by simp [hi])

/-- With no reset the ticks after a load count the event's intervals. -/
theorem runTicks_inInterval {i : Nat} (hready : s.ready) (hst : s.st = .run) (hstb : s.stb = true)
    (hi : i < s.tmr.toNat) (hno : ∀ p ∈ s.inputs.take i, p.rst_i = false) : runTicks i s = .next (s.inInterval i) := by
  induction i with
  | zero => rw [State.inInterval_zero hstb]; rfl
  | succ i ih =>
    have hprev := ih (by omega) fun p hp => hno p (List.take_subset_take_left _ (Nat.le_succ i) hp)
    have htmr := State.inInterval_tmr (s := s) (i := i) (by omega)
    rw [runTicks_succ i s _ hprev, ← State.countdown_inInterval]
    exact step_of_tickEffect (State.inInterval_rst_i hno) hready (.countdown hst (by omega))

/-- Settles O22: one tick of countdown, and by induction the intervals. -/
theorem countdownOfAnEvent : Obligations.CountdownOfAnEvent := by
  refine ⟨fun s => plainTick_countdown, fun s i hready hst hstb hi hno => ?_⟩
  exact ⟨s.inInterval i, runTicks_inInterval hready hst hstb hi hno, State.inInterval_tmr hi.le, rfl, rfl, hst, rfl, rfl,
    rfl, decide_eq_true_iff⟩

/-! What a step can do to TMR (R136). -/

/-- The ROM has three words. -/
theorem rom_cases (d : Dsel) : rom d = 390#14 ∨ rom d = 1030#14 ∨ rom d = 9920#14 := by
  cases d with
  | short => exact .inl rfl
  | long => exact .inr (.inl rfl)
  | radioSilence => exact .inr (.inr rfl)

/-- A slot operation loads the timer with a word of the ROM, or clears it. -/
theorem SlotEffect.tmr {op : SlotOp} (h : SlotEffect op s t) :
    t.tmr = 390#14 ∨ t.tmr = 1030#14 ∨ t.tmr = 9920#14 ∨ t.tmr = 0#14 := by
  cases h with
  | load p => rcases rom_cases p.dsel with hd | hd | hd <;> simp [hd]
  | fault => exact .inr (.inr (.inr rfl))

/-- Settles O26, effect by effect. -/
theorem timerIsLoadedOrCountsDown : Obligations.TimerIsLoadedOrCountsDown := by
  intro s t h
  rcases step_effect h with ⟨_, rfl⟩ | ⟨_, _, heff⟩
  · simp [State.reset]
  · cases heff with
    | lengthFault | prescanFault | halt => simp
    | rest => exact .inl rfl
    | countdown _ htmr => exact .inr (.inl ⟨htmr, countdown_toNat (s := s.consume) htmr.le⟩)
    | beginsRun _ _ _ _ _ ht => exact .inr (.inr ht.tmr)
    | enters _ _ _ _ _ ht => exact .inr (.inr ht.tmr)

/-! No reachable state stops. -/

/-- Settles O45: a reset steps from any state, and the invariant leaves no reason to refuse another tick. -/
theorem noReachableStateStops : Obligations.NoReachableStateStops := by
  intro s hs
  cases hr : s.ports.rst_i with
  | true => exact ⟨_, step_reset hr⟩
  | false =>
    obtain ⟨t, hstep, _⟩ := exists_step (inv_of_reachable hs) hr
    exact ⟨t, hstep⟩

end Sys2Proof.Machine
end

section
/-! ### The host operations START, TICK and RESET (43_host_operations.md R140 to R146) -/

namespace Sys2Proof.Machine

open Sys2Proof

variable {s t : State} {c x : CmdWord} {k : SymIdx} {fp : FaultPrefix}

/-! The accepted START (R141). -/

/-- An accepted START runs its rule under the FAULT_PREFIX of the implementation. -/
theorem exec_start_idle (hready : s.ready) (hst : s.st = .idle) (c x : CmdWord) (e : Bool) :
    exec (.start c x e) s = startUnder Config.faultPrefix c x e s := by
  show execStart c x e s = _
  unfold execStart
  rw [hst]
  exact guarded_ready hready _

/-- Under PRESCAN the first mark faults in the START tick, with the position kept. -/
theorem startUnder_prescan (hk : firstSx x = some k) :
    startUnder .prescan c x false s = .next ((s.latch c x).raise .symbol (BitVec.ofNat 5 k.val)) := by
  simp [startUnder, hk]

/-- Under LAZY every command of the right length begins a run. -/
theorem startUnder_lazy : startUnder .lazy c x false s = beginRun (s.latch c x) := by
  unfold startUnder
  cases firstSx x <;> rfl

/-- A run that begins is in RUN, or already in FAULT. -/
theorem beginRun_leaves_idle (h : beginRun s = .next t) : t.st ≠ .idle := by
  rcases (issue_iff.1 h).st with e | ⟨e, _⟩ <;> simp [e]

/-- Whatever a START answers, ST has left IDLE. -/
theorem startUnder_leaves_idle {e : Bool} (h : startUnder fp c x e s = .next t) : t.st ≠ .idle := by
  rcases startUnder_cases fp c x e s with ⟨_, hgo⟩ | ⟨_, _, k, _, hgo⟩ | ⟨_, _, hgo⟩
  · cases hgo.symm.trans h
    simp
  · cases hgo.symm.trans h
    simp
  · exact beginRun_leaves_idle (hgo.symm.trans h)

/-- Settles O27, branch by branch of R141: the length, PRESCAN's mark, and the beginning of the run by the mark of symbol 0. -/
theorem startFollowsItsRule : Obligations.StartFollowsItsRule := by
  intro s c x hready hst
  refine ⟨fun e t h => startUnder_leaves_idle ((exec_start_idle hready hst c x e).symm.trans h),
    exec_start_idle hready hst c x true, ?_, fun k hk hleast => ?_⟩
  · rintro rfl
    rw [exec_start_valid hready hst]
    exact beginRun_event (s.latch c 0#24) (by simp)
  · rw [exec_start_idle hready hst]
    cases hfp : Config.faultPrefix with
    | prescan => exact startUnder_prescan (firstSx_of hk hleast)
    | lazy =>
      rw [startUnder_lazy, if_neg (by simp)]
      by_cases hk0 : k.val = 0
      · rw [if_pos hk0]
        exact beginRun_fault (s.latch c x) (by simpa [hk0] using hk)
      · rw [if_neg hk0]
        exact beginRun_event (s.latch c x) (hleast 0 (Nat.pos_of_ne_zero hk0))

/-! Ticks without an accepted START (R142, R143, R145). -/

/-- Settles O25: a TICK is a plain tick. -/
theorem tickOutsideARunChangesNothing : Obligations.TickOutsideARunChangesNothing := fun _ => plainTick_rest

/-- Outside IDLE a START is a TICK. -/
theorem exec_start_outside_idle (hst : s.st ≠ .idle) (c x : CmdWord) (e : Bool) : exec (.start c x e) s = exec .tick s := by
  show execStart c x e s = plainTick s
  unfold execStart
  cases h : s.st with
  | idle => exact absurd h hst
  | run | done | fault => rfl

/-- Settles O28: the step with the request and the step without it are the same plain tick. -/
theorem startOutsideIdleIsIgnored : Obligations.StartOutsideIdleIsIgnored := by
  refine ⟨fun s c x e hst => exec_start_outside_idle hst c x e, fun s p rest hst hr => ?_⟩
  have hplain (q : Inputs) (hq : q.rst_i = false) : step (s.withInputs (q :: rest)) = exec .tick (s.withInputs rest) :=
    step_plain (s := s.withInputs (q :: rest)) hq (.inr hst)
  exact ⟨(hplain p hr).trans (hplain { p with start_i := false } hr).symm, hplain p hr⟩

/-- Settles O35: neither a reset nor a plain tick looks at the command ports. -/
theorem commandPortsAreReadAtStartOnly : Obligations.CommandPortsAreReadAtStartOnly := by
  intro s p q rest hrst hstart hnot
  cases hr : p.rst_i with
  | true =>
    exact (step_reset (s := s.withInputs (p :: rest)) hr).trans
      (step_reset (s := s.withInputs (q :: rest)) (hrst.symm.trans hr)).symm
  | false =>
    have hplain : p.start_i = false ∨ s.st ≠ .idle := by simpa [hr, or_comm] using hnot
    exact (step_plain (s := s.withInputs (p :: rest)) hr hplain).trans
      (step_plain (s := s.withInputs (q :: rest)) (hrst.symm.trans hr) (hstart ▸ hplain)).symm

/-! RESET (R140, R146). -/

/-- With no start request a tick in the reset state, itself a reset or not, uses up its sample and changes nothing else. -/
theorem step_reset_state {ins : List Inputs} (hs : ∀ q ∈ ins, q.start_i = false) :
    step (State.reset.withInputs ins) = .next (State.reset.withInputs ins.tail) := by
  have hstart : (State.reset.withInputs ins).ports.start_i = false := by
    cases ins with
    | nil => rfl
    | cons q rest => exact hs q List.mem_cons_self
  cases hr : (State.reset.withInputs ins).ports.rst_i with
  | true => exact step_reset hr
  | false => exact step_of_tickEffect hr ⟨rfl, rfl⟩ (.rest nofun (.inl hstart))

/-- Once in the reset state, with no start request, the block stays there. -/
theorem runTicks_reset_state {n : Nat} {ins : List Inputs} (h : runTicks n s = .next (State.reset.withInputs ins))
    (hs : ∀ q ∈ ins, q.start_i = false) (m : Nat) :
    runTicks (n + m) s = .next (State.reset.withInputs (ins.drop m)) := by
  induction m with
  | zero => exact h
  | succ m ih =>
    rw [← Nat.add_assoc, runTicks_succ _ s _ ih, step_reset_state fun q hq => hs q (List.mem_of_mem_drop hq), List.tail_drop]

/-- Settles O60: the tick of the request gives the reset state, and the block stays there. -/
theorem resetKillsARunAtOnce : Obligations.ResetKillsARunAtOnce := by
  intro s t n m p rest hrun hin hrst hs
  have hr : t.ports.rst_i = true := by simpa [State.ports, hin] using hrst
  have hkill : runTicks (n + 1) s = .next (State.reset.withInputs rest) := by
    rw [runTicks_succ n s t hrun, step_reset hr, hin, List.tail_cons]
  exact ⟨runTicks_reset_state hkill hs m, rfl⟩

end Sys2Proof.Machine
end

section
/-! ### Exceptions: fault entry, precision, and the pin on every path (60_exceptions.md R151 to R164) -/

namespace Sys2Proof.Machine

open Sys2Proof

variable {s t : State} {c x : CmdWord} {e : Bool} {n : Nat} {k : SymIdx}

/-! Fault entry (R160). -/

/-- Settles O12. -/
theorem symxRaisesWithTheSlotIndex : Obligations.SymxRaisesWithTheSlotIndex := fun _ => rfl

/-- Settles O30: a reset reads no register. -/
theorem resetWinsAndErasesEverything : Obligations.ResetWinsAndErasesEverything := by
  intro s u p q rest hp hq
  have hs : step (s.withInputs (p :: rest)) = .next (State.reset.withInputs rest) := step_reset hp
  have hu : step (u.withInputs (q :: rest)) = .next (State.reset.withInputs rest) := step_reset hq
  exact ⟨hs.trans hu.symm, hs⟩

/-- A slot operation that enters FAULT is a SYMX, which raises. -/
theorem SlotEffect.of_fault {op : SlotOp} (h : SlotEffect op s t) (hs : s.st ≠ .fault) (ht : t.st = .fault) :
    op = .symx ∧ t = s.raise .symbol s.slot := by
  cases h with
  | load => exact absurd ht hs
  | fault hop => exact ⟨hop, rfl⟩

/-- The ways into FAULT: a wrong length, a mark found by PRESCAN, and SYMX at the beginning of a run or at an expiry. -/
inductive FaultEntry (s : State) : State → Prop
  | length (hst : s.st = .idle) (he : s.ports.lenerr_i = true) :
      FaultEntry s ((s.consume.latch s.ports.cmd_i s.ports.cmdx_i).raise .length 0#5)
  | prescan (hst : s.st = .idle) (he : s.ports.lenerr_i = false) (hfp : Config.faultPrefix = .prescan) (k : SymIdx)
      (hk : firstSx s.ports.cmdx_i = some k) :
      FaultEntry s ((s.consume.latch s.ports.cmd_i s.ports.cmdx_i).raise .symbol (BitVec.ofNat 5 k.val))
  | firstSymbol (hst : s.st = .idle) (he : s.ports.lenerr_i = false) (hfp : Config.faultPrefix = .lazy)
      (hk : firstSx s.ports.cmdx_i = some 0) : FaultEntry s (s.started.raise .symbol 0#5)
  | expiry (hst : s.st = .run) (htmr : s.tmr.toNat ≤ 1) (p : Position) (hn : nextPosition s.pos = some p) :
      FaultEntry s ((s.consume.setPos p).raise .symbol p.slot)

/-- SYMX at the beginning of a run is the mark of symbol 0. -/
theorem firstSx_of_started_symx (h : s.started.slotOp = .symx) : firstSx s.ports.cmdx_i = some 0 := by
  obtain ⟨_, _, hsx⟩ := uop_symx h
  exact firstSx_of ((symClass_sx _ _ _).1 hsx) fun j hj => absurd hj (Nat.not_lt_zero _)

/-- A step into FAULT is no reset, and one of the fault entries. -/
theorem faultEntry_of_step (h : step s = .next t) (hs : s.st ≠ .fault) (ht : t.st = .fault) :
    s.ports.rst_i = false ∧ FaultEntry s t := by
  rcases step_effect h with ⟨_, rfl⟩ | ⟨hr, _, heff⟩
  · cases ht
  refine ⟨hr, ?_⟩
  cases heff with
  | lengthFault hst _ he => exact .length hst he
  | prescanFault hst _ he hfp k hk => exact .prescan hst he hfp k hk
  | beginsRun hst _ he hx _ heff =>
    obtain ⟨hop, rfl⟩ := heff.of_fault (by simp) ht
    have hk := firstSx_of_started_symx hop
    exact .firstSymbol hst he (hx.resolve_left (by simp [hk])) hk
  | rest => exact absurd ht hs
  | countdown => exact absurd ht hs
  | halt => cases ht
  | enters hst htmr p hn _ heff =>
    obtain ⟨_, rfl⟩ := heff.of_fault hs ht
    exact .expiry hst htmr p hn

/-- After a fault entry ERR is up and BUSY down. -/
@[simp] theorem State.raise_err_o (s : State) (kind : ErrKind) (i : BitVec 5) : (s.raise kind i).outputs.err_o = 1#1 := rfl
@[simp] theorem State.raise_busy_o (s : State) (kind : ErrKind) (i : BitVec 5) : (s.raise kind i).outputs.busy_o = 0#1 := rfl

/-- Settles O37, way by way into FAULT. -/
theorem faultEntryWritesSixRegisters : Obligations.FaultEntryWritesSixRegisters := by
  intro s t h hs ht
  cases (faultEntry_of_step h hs ht).2 with
  | length hst he => simp [hst, he]
  | prescan hst he hfp k hk => simp [hst, he, hfp, hk]
  | firstSymbol hst he hfp hk => simp [hst, he, hfp, hk]
  | expiry hst _ p hn => simp [hst, hn]

/-! Precision (R155). -/

/-- The position before the first event of a slot of the first repetition is the second event of the slot before it. -/
theorem ph_before_slot_start {p q : Position} (hl : positionLegal p = true) (hn : nextPosition p = some q)
    (hrep : q.rep = 0#4) (hph : q.ph = 0#1) : p.ph = 1#1 := by
  obtain ⟨hq, hidx⟩ := positionIndex_next hl hn
  have hslot := (positionLegal_bounds hq).1
  have hfirst : positionIndex q = 2 * q.slot.toNat := by
    rw [positionIndex_of_rep_ne (by rw [hrep]; decide), hrep, hph]
    simp
  have hprev : positionIndex p = 2 * (q.slot.toNat - 1) + 1 := by omega
  rw [← (positionAt_positionIndex hl).2, hprev, positionAt_slot_second (by omega)]

/-- Settles O48: the state after is at the first event of a slot of the first repetition, so the event before it is the LOW
second event of the slot before. -/
theorem faultIsPrecise : Obligations.FaultIsPrecise := by
  intro s t hs h hsf htf
  have hinv := inv_of_reachable hs
  obtain ⟨hr, hentry⟩ := faultEntry_of_step h hsf htf
  obtain ⟨_, _, _, htrace, _⟩ := faultEntryWritesSixRegisters s t h hsf htf
  obtain ⟨_, _, _, _, hrep, hph, k, _, hslot, _, hlen, _⟩ := faultRow_of_inv (everyStepKeepsTheInvariant s t hinv h) htf
  obtain ⟨hlow, hlast⟩ : s.level = .low ∧ (s.st = .run → s.tmr = 1#14 ∧ s.ph = 1#1) := by
    cases hentry with
    | length hst | prescan hst | firstSymbol hst =>
      obtain ⟨_, hlow, _⟩ := atRest_of_inv hinv (by simp [hst])
      exact ⟨hlow, by simp [hst]⟩
    | expiry hst htmr p hn =>
      have hrun := runInv_of_inv hinv hst
      have hpos := hrun.tmr_pos
      exact ⟨hrun.level_low hn hph, fun _ =>
        ⟨BitVec.eq_of_toNat_eq (by simp; omega), ph_before_slot_start hrun.legal hn hrep hph⟩⟩
  exact ⟨hlow, hlast, hr, htrace, by rw [hlen, hslot]⟩

/-! The pin (R164). -/

/-- A HIGH event lasts LONG at most. -/
theorem pulseEvent_high_dur {p : PulseCode} (h : p.level = .high) : (pulseEvent p).dur.toNat ≤ 1030 := by
  cases p with
  | hShort | hLong => decide
  | lShort | lLong | lSil => cases h

/-- The level is HIGH in a run only. -/
theorem run_of_high (h : Inv s) (hhigh : s.level = .high) : s.st = .run := by
  by_contra hst
  obtain ⟨_, hlow, _⟩ := atRest_of_inv h hst
  simp [hhigh] at hlow

/-- A HIGH level is that of the last event of TRACE, a HIGH event, and the timer is within its duration. -/
theorem high_event (h : Inv s) (hhigh : s.level = .high) :
    ∃ ev, s.trace.getLast? = some ev ∧ ev.level = .high ∧ ev.dur.toNat ≤ 1030 ∧ s.tmr.toNat ≤ ev.dur.toNat := by
  obtain ⟨ev, hev, ⟨hlevel, _, hle, _⟩, htrace⟩ := (runInv_of_inv h (run_of_high h hhigh)).trace_last
  have hevHigh : ev.level = .high := hlevel ▸ hhigh
  obtain ⟨q, _, rfl⟩ := eventAt_eq_some hev
  exact ⟨_, by rw [htrace, List.getLast?_concat], hevHigh, pulseEvent_high_dur hevHigh, hle⟩

/-- The level is LOW after an expiry of a HIGH event: the next event is the second of its slot. -/
theorem RunInv.low_after_high (h : RunInv s) (hhigh : s.level = .high) (ht : RunInv t)
    (hn : nextPosition s.pos = some t.pos) : t.level = .low := by
  obtain ⟨ev, hev, hwire, _⟩ := h.wire
  obtain ⟨hph, hslot⟩ := eventAt_high h.legal hev (hwire ▸ hhigh)
  have hph' : t.pos.ph = 1#1 := by
    rw [← Option.some.inj ((nextPosition_first hslot hph).symm.trans hn)]
  cases hlevel : t.level with
  | low => rfl
  | high =>
    obtain ⟨ev', hev', hwire', _⟩ := ht.wire
    obtain ⟨hph0, _⟩ := eventAt_high ht.legal hev' (hwire' ▸ hlevel)
    exact absurd (hph0.symm.trans hph') (by decide)

/-- A tick from HIGH to HIGH is a countdown. -/
theorem tmr_of_high_to_high (h : Inv s) (hstep : step s = .next t) (hs : s.level = .high) (ht : t.level = .high) :
    t.tmr.toNat + 1 = s.tmr.toNat := by
  have hst := run_of_high h hs
  have hinv := everyStepKeepsTheInvariant s t h hstep
  rcases step_effect hstep with ⟨_, rfl⟩ | ⟨_, _, heff⟩
  · cases ht
  cases heff with
  | lengthFault | prescanFault | halt => cases ht
  | beginsRun hidle => simp [hst] at hidle
  | rest hne => exact absurd hst hne
  | countdown _ htmr =>
    have hcount : s.consume.countdown.tmr.toNat = s.tmr.toNat - 1 := countdown_toNat (s := s.consume) htmr.le
    omega
  | enters _ _ p hn _ heff =>
    have hlow := (runInv_of_inv h hst).low_after_high hs (runInv_of_inv hinv (run_of_high hinv ht))
      (by rw [heff.pos, State.setPos_pos, hn])
    simp [ht] at hlow

/-- As long as the level stays HIGH the timer counts down. -/
theorem tmr_while_high (h : Inv s) (hhigh : ∀ m ≤ n, ∃ t, runTicks m s = .next t ∧ t.level = .high) :
    ∃ t, runTicks n s = .next t ∧ Inv t ∧ t.level = .high ∧ t.tmr.toNat + n = s.tmr.toNat := by
  induction n with
  | zero =>
    obtain ⟨t, hrun, ht⟩ := hhigh 0 le_rfl
    cases hrun
    exact ⟨s, rfl, h, ht, rfl⟩
  | succ n ih =>
    obtain ⟨u, hu, hinv, huhigh, hcount⟩ := ih fun m hm => hhigh m (by omega)
    obtain ⟨t, hrun, ht⟩ := hhigh (n + 1) le_rfl
    have hstep : step u = .next t := (runTicks_succ n s u hu).symm.trans hrun
    have htmr := tmr_of_high_to_high hinv hstep huhigh ht
    exact ⟨t, hrun, everyStepKeepsTheInvariant u t hinv hstep, ht, by omega⟩

/-- Settles O47: a HIGH stretch is one countdown, from 1030 at most. -/
theorem pinIsSafeOnEveryPath : Obligations.PinIsSafeOnEveryPath := by
  intro s hs
  have hinv := inv_of_reachable hs
  refine ⟨fun hst => ?_, high_event hinv, fun hhigh => ?_⟩
  · obtain ⟨_, hlow, _⟩ := atRest_of_inv hinv hst
    exact hlow
  · obtain ⟨t, _, htinv, ht, hcount⟩ := tmr_while_high hinv hhigh
    obtain ⟨_, hrun, hs0⟩ := hhigh 0 (by omega)
    cases hrun
    obtain ⟨_, _, _, hdur, hle⟩ := high_event hinv hs0
    have hpos := (runInv_of_inv htinv (run_of_high htinv ht)).tmr_pos
    omega

/-! The faults of a run (R151 to R153). -/

/-- Whatever FAULT_PREFIX is, the verdict on a bad symbol names the first, and at most the symbols before it are issued. -/
theorem encodeCommand_bad (fp : FaultPrefix) (c : CmdWord) (hk : firstSx x = some k) :
    (encodeCommand fp c x false).2 = .err .symbol (BitVec.ofNat 5 k.val) ∧
      (encodeCommand fp c x false).1 = if fp = .prescan then [] else pairsBefore c x k.val := by
  cases fp with
  | prescan => rw [encodeCommand_prescan c hk]; exact ⟨rfl, rfl⟩
  | lazy => rw [encodeCommand_lazy c hk]; exact ⟨rfl, rfl⟩

/-- Settles O53: FAULT_PREFIX makes a difference only for a command with a bad symbol, and there in the events only. -/
theorem bothReadingsAgreeOnTheVerdict : Obligations.BothReadingsAgreeOnTheVerdict := by
  intro c x e
  rcases command_cases x e with rfl | ⟨rfl, rfl⟩ | ⟨rfl, k, hk⟩
  · simp
  · simp [encodeCommand_valid, (firstSx_zero 0#24).2 rfl]
  · rw [encodeCommand_prescan c hk, encodeCommand_lazy c hk]
    refine ⟨rfl, List.nil_prefix, fun fp k' _ hk' => ?_⟩
    obtain ⟨hverdict, hevents⟩ := encodeCommand_bad fp c hk'
    refine ⟨hverdict, ?_, pairsBefore_length c x (by omega) (firstSx_least hk')⟩
    rw [hevents]
    split
    · exact List.nil_prefix
    · exact List.prefix_rfl

/-- The events before the fault of a bad symbol last a slot for each symbol before it, none under PRESCAN. -/
theorem totalTicks_encodeCommand_symbol (fp : FaultPrefix) (c : CmdWord) (hk : firstSx x = some k) :
    totalTicks (encodeCommand fp c x false).1 = if fp = .prescan then 0 else 1420 * k.val := by
  rw [(encodeCommand_bad fp c hk).2, apply_ite totalTicks, totalTicks_pairsBefore c x (by omega) (firstSx_least hk)]
  rfl

/-- Once the events of a command with an error verdict are over, the block is in FAULT with that verdict and its TRACE. -/
theorem OnTime.faulted (h : OnTime c x e n s) {kind : ErrKind} {idx : BitVec 5}
    (hverdict : (encodeCommand Config.faultPrefix c x e).2 = .err kind idx)
    (hle : totalTicks (encodeCommand Config.faultPrefix c x e).1 ≤ n) :
    s.st = .fault ∧ s.errkind = kind ∧ s.erridx = idx ∧ s.level = .low ∧
      s.trace = (encodeCommand Config.faultPrefix c x e).1 := by
  have hst := h.over hle
  obtain ⟨htrace, hended⟩ := h.ended hst
  obtain ⟨_, hlow, _⟩ := atRest_of_inv h.inv hst
  rw [hverdict] at hended
  have hfault := verdict_err hended
  obtain ⟨hkind, hidx⟩ : s.errkind = kind ∧ s.erridx = idx := by simpa [State.verdict, hfault] using hended
  exact ⟨hfault, hkind, hidx, hlow, htrace⟩

/-- Settles O57: the run lasts as long as the events before the fault. -/
theorem badCommandFaultsOnItsTick : Obligations.BadCommandFaultsOnItsTick := by
  intro s c x k rest hs hst hin hno hk n
  obtain ⟨t, ht, hon⟩ := runTicks_onTime hs hst hin hno n
  refine ⟨t, ht, ?_⟩
  rw [← totalTicks_encodeCommand_symbol Config.faultPrefix c hk]
  split
  next hlt => exact hon.run_iff.2 hlt
  next hge =>
    obtain ⟨hfault, hkind, hidx, hlow, _⟩ := hon.faulted (encodeCommand_bad _ c hk).1 (by omega)
    exact ⟨hfault, hkind, hidx, hlow⟩

/-- Settles O58: a wrong length has no events. -/
theorem wrongLengthFaultsAtOnce : Obligations.WrongLengthFaultsAtOnce := by
  intro s c x rest hs hst hin hno n
  obtain ⟨t, ht, hon⟩ := runTicks_onTime hs hst hin hno n
  exact ⟨t, ht, hon.faulted (by rw [encodeCommand_length]) (by simp [totalTicks])⟩

end Sys2Proof.Machine
end

section
/-! ### Power-on and the clean entry (70_reset_and_hazards.md R181, R182) -/

namespace Sys2Proof.Machine

open Sys2Proof

/-- Without a reset request a step is a guarded operation: an accepted START and a plain tick both are. -/
theorem step_guarded {s : State} (hr : s.ports.rst_i = false) : ∃ go, step s = s.consume.guarded go := by
  rcases step_cases s with ⟨hrst, _⟩ | ⟨_, _, _, hstart⟩ | ⟨_, _, hplain⟩
  · simp [hr] at hrst
  · exact ⟨_, hstart⟩
  · exact ⟨_, hplain⟩

/-- Settles O31: a guarded operation is refused before the first reset, and a reset reads no register. -/
theorem beforeTheFirstResetOnlyResetSteps : Obligations.BeforeTheFirstResetOnlyResetSteps := by
  intro s hseen
  refine ⟨fun hr => ?_, step_reset⟩
  obtain ⟨go, hgo⟩ := step_guarded hr
  rw [hgo]
  exact guarded_beforeReset (s := s.consume) hseen go

/-- Settles O44: the clean entry is the IDLE row of R38 without the command store. -/
theorem idleAloneIsACleanEntry : Obligations.IdleAloneIsACleanEntry := by
  intro s hs hst
  obtain ⟨hpos, htmr, hlevel, hstb, hkind, hidx, _, _, htrace⟩ := idleRow_of_inv (inv_of_reachable hs) hst
  exact ⟨hpos, htmr, hlevel, hstb, hkind, hidx, htrace⟩

end Sys2Proof.Machine
end

section
/-! ### The pulse pairs of SYM0, SYM1 and TRAIL (40_symbol_mapper.md R101, R102; 41_framing_sequencer.md R110) -/

namespace Sys2Proof.Machine

open Sys2Proof

/-- An operation with a pulse code in both phases loads the one's event in phase 0 and the other's in phase 1. -/
theorem exec_pulsePair {op : SlotOp} {a b : PulseCode} (ha : pulseOf op 0#1 = some a) (hb : pulseOf op 1#1 = some b)
    (s : State) :
    (s.ph = 0#1 → exec op.toInstr s = .next (s.emit a.level (rom a.dsel))) ∧
      (s.ph = 1#1 → exec op.toInstr s = .next (s.emit b.level (rom b.dsel))) :=
  ⟨fun hph => exec_of_issuedPulse (issuedPulse_of_pulseOf (hph ▸ ha)),
    fun hph => exec_of_issuedPulse (issuedPulse_of_pulseOf (hph ▸ hb))⟩

/-- Settles O10: the pair is HIGH SHORT, LOW LONG. -/
theorem sym0IssuesHighShortThenLowLong : Obligations.Sym0IssuesHighShortThenLowLong :=
  exec_pulsePair (op := .sym0) (a := .hShort) (b := .lLong) rfl rfl

/-- Settles O11: the pair is HIGH LONG, LOW SHORT. -/
theorem sym1IssuesHighLongThenLowShort : Obligations.Sym1IssuesHighLongThenLowShort :=
  exec_pulsePair (op := .sym1) (a := .hLong) (b := .lShort) rfl rfl

/-- Settles O13: the grammar table gives TRAIL the pair of SYM0. -/
theorem trailIssuesHighShortThenLowLong : Obligations.TrailIssuesHighShortThenLowLong :=
  exec_pulsePair (op := .trail) (a := .hShort) (b := .lLong) rfl rfl

end Sys2Proof.Machine
end
